-- ==== Sys2Proof/Word.lean ====
section
/-! DEFINITION. The words of the engine: a byte, a 16-bit value and a 32-bit host word (00_scope.md R13). -/

namespace Sys2Proof

/-- One byte: a wire byte, a script byte, a pixel-buffer byte. -/
abbrev Byte := BitVec 8

/-- A 16-bit value: a geometry register, a window edge, a 5-6-5 pixel, the script pointer. -/
abbrev Half := BitVec 16

/-- A 32-bit host register word (R82: every host access is 32 bits wide). -/
abbrev Word := BitVec 32

/-- An RGB888 colour (R126). -/
abbrev Rgb := BitVec 24

end Sys2Proof
end

