-- ==== Sys2Proof/Config.lean ====
section
/-! DEFINITION. The parameters of 00_scope.md R10 and R11, the constants of R9, and the one free value. -/

namespace Sys2Proof.Config

/-- The parameters a model takes as arguments (R10, R11). They are held in `State.par`, which no step
changes, so that a statement over every state is a statement over every value of them (log 1). -/
structure Params where
  /-- P_PHYS_COLS: the controller's physical column count (D24). -/
  physCols : Nat
  /-- P_PHYS_ROWS: the controller's physical row count (D24). -/
  physRows : Nat
  /-- P_BUF_BYTES: pixel-buffer capacity in bytes (D25). -/
  bufBytes : Nat
  /-- P_SPI_CPOL: SPI clock polarity (D23). -/
  spiCpol : Bool
  /-- P_SPI_CPHA: SPI clock phase (D23). -/
  spiCpha : Bool
  /-- P_SCLK_HZ: SPI clock rate (D23). -/
  sclkHz : Nat
  /-- P_CMD_CASET: column-address-set command byte (D17). -/
  cmdCaset : Byte
  /-- P_CMD_RASET: row-address-set command byte (D17). -/
  cmdRaset : Byte
  /-- P_CMD_RAMWR: memory-write command byte (D17). -/
  cmdRamwr : Byte
  /-- P_CMD_MADCTL: mode-configuration command byte (D17). -/
  cmdMadctl : Byte
  /-- P_CMD_INVON: invert-colors-on command byte (D17). -/
  cmdInvon : Byte
  /-- P_MADCTL_MY_BIT: bit of the mode byte for mirror-Y (D18). -/
  madctlMyBit : Fin 8
  /-- P_MADCTL_MX_BIT: bit of the mode byte for mirror-X (D18). -/
  madctlMxBit : Fin 8
  /-- P_MADCTL_BGR_BIT: bit of the mode byte for BGR colour order (D18). -/
  madctlBgrBit : Fin 8
  /-- P_DC_CMD_LEVEL: DC line level that marks a command byte (D16); true is level 1. -/
  dcCmdLevel : Bool
  /-- P_SPI_MSB_FIRST: bit order of each byte on the data line (D23). -/
  spiMsbFirst : Bool
deriving DecidableEq, Repr

/-- What R10 and R11 require of the parameters: the grid is 1..65535 each way, the five command values are
distinct, the three mode-byte positions are distinct. -/
abbrev Params.Legal (p : Params) : Prop :=
  (1 ≤ p.physCols ∧ p.physCols ≤ 65535) ∧ (1 ≤ p.physRows ∧ p.physRows ≤ 65535) ∧
  [p.cmdCaset, p.cmdRaset, p.cmdRamwr, p.cmdMadctl, p.cmdInvon].Nodup ∧
  [p.madctlMyBit, p.madctlMxBit, p.madctlBgrBit].Nodup

/-! ## OPEN parameters of R10: no value, so no body (log 1) -/

/-- P_PHYS_COLS less one: R10 gives the range 1..65535 and no value. -/
opaque physColsLessOne : Fin 65535

/-- P_PHYS_ROWS less one: R10 gives the range 1..65535 and no value. -/
opaque physRowsLessOne : Fin 65535

/-- P_BUF_BYTES (R10): any natural. -/
opaque bufBytes : Nat

/-- P_SPI_CPOL (R10). -/
opaque spiCpol : Bool

/-- P_SPI_CPHA (R10). -/
opaque spiCpha : Bool

/-- P_SCLK_HZ (R10). -/
opaque sclkHz : Nat

/-- P_SCRIPT (R10): the init-script image in the script ROM; its length is P_SCRIPT_LEN. -/
opaque script : List Byte

/-! ## The free value (93_implementation_defined.md I1, log 4) -/

/-- FREE VALUE: what byte `a` of the pixel buffer holds after block reset number `epoch`, until SETUP clears it
(R56: "A model gives it any value"). -/
opaque fbUnspecified (epoch a : Nat) : Byte

/-- The parameters the machine has at reset: the OPEN ones of R10 as opaque constants, those of R11 at the
default that R11 says a model uses unless told otherwise. PRESUMED in the spec's own marking ("from general
knowledge, not in source"), log 2. -/
def params : Params where
  physCols := physColsLessOne.val + 1
  physRows := physRowsLessOne.val + 1
  bufBytes := bufBytes
  spiCpol := spiCpol
  spiCpha := spiCpha
  sclkHz := sclkHz
  cmdCaset := 0x2A
  cmdRaset := 0x2B
  cmdRamwr := 0x2C
  cmdMadctl := 0x36
  cmdInvon := 0x21
  madctlMyBit := 7
  madctlMxBit := 6
  madctlBgrBit := 3
  dcCmdLevel := false
  spiMsbFirst := true

/-! ## Constants the source fixes (R9); unaudited by the spec's own word, log 17 -/

/-- DEF_WIDTH (R9). -/
def defWidth : Half := 80

/-- DEF_HEIGHT (R9). -/
def defHeight : Half := 160

/-- DEF_COLSTART (R9). -/
def defColstart : Half := 24

/-- DEF_ROWSTART (R9). -/
def defRowstart : Half := 0

/-- T_RST_HIGH in milliseconds (R9). -/
def tRstHigh : Nat := 1

/-- T_RST_LOW in milliseconds (R9). -/
def tRstLow : Nat := 10

/-- T_STARTUP in milliseconds (R9). -/
def tStartup : Nat := 100

/-- DELAY_SENTINEL (R9). -/
def delaySentinel : Byte := 255

/-- DELAY_SENTINEL_MS (R9). -/
def delaySentinelMs : Nat := 500

end Sys2Proof.Config
end

