-- ==== Sys2Proof/Syntax.lean ====
section
/-! DEFINITION. The instructions: one constructor per row of spec/opcode_table.json, and the encoded forms they
are read from (30_encoding.md R110). -/

namespace Sys2Proof

/-! ## Encoded forms -/

/-- Direction of a host register access (R110, HOSTREG). -/
inductive Direction where
  | read
  | write
deriving DecidableEq, Repr

/-- Width of a host access. Only 32 bits has a meaning (R82). -/
inductive AccessWidth where
  | bits8
  | bits16
  | bits32
deriving DecidableEq, Repr

/-- One access on the host interface as it arrives: the triple of R133 (direction, offset, data) and the access
width that R82 speaks of. The data of a read is no part of its meaning. -/
structure HostAccess where
  dir : Direction
  offset : BitVec 6
  data : Word
  width : AccessWidth := .bits32
deriving DecidableEq, Repr

/-- A decoded script record (R120). It keeps the raw delay byte, not its millisecond value. -/
structure Record where
  opcode : Byte
  args : List Byte
  delay : Option Byte
deriving DecidableEq, Repr

/-- An encoded instruction: one constructor per encoded input of R135, and the command byte of an engine frame. -/
inductive Code where
  /-- HOSTCMD: the 32-bit value written to CMD (R111). -/
  | hostCmd (v : Word)
  /-- HOSTREG: one host access (R111). -/
  | hostReg (a : HostAccess)
  /-- IMG byte 0: the record count (R115). -/
  | header (b : Byte)
  /-- A script record's bytes (R114). -/
  | record (bs : List Byte)
  /-- The DLY byte of a record (R119). -/
  | delay (b : Byte)
  /-- The CMD byte of a frame the engine generates (R123). -/
  | wire (b : Byte)
deriving DecidableEq, Repr

/-- The operand of a HOSTREG row: a read, or a write of a 32-bit value. -/
inductive Access where
  | read
  | write (v : Word)
deriving DecidableEq, Repr

/-! ## Instructions -/

/-- One constructor per row of spec/opcode_table.json. -/
inductive Instr where
  /-- SETUP (R221): HOSTCMD with OP = 0x01; bits [31:8] are ignored. -/
  | setup (ignored : BitVec 24)
  /-- UPDATE (R290): OP = 0x02. -/
  | update (ignored : BitVec 24)
  /-- SET_PIXEL (R265): OP = 0x03. -/
  | setPixel (ignored : BitVec 24)
  /-- RESERVED_OP (R113): OP = 0x00 or 0x04..0xFF. -/
  | reservedOp (op : Byte) (ignored : BitVec 24)
  /-- REG_CMD (R32, R323), offset 0x00. -/
  | regCmd (a : Access)
  /-- REG_STATUS (R33, R238), offset 0x04. -/
  | regStatus (a : Access)
  /-- REG_CFG_WIDTH (R236, R237), offset 0x08. -/
  | regCfgWidth (a : Access)
  /-- REG_CFG_HEIGHT (R236, R237), offset 0x0C. -/
  | regCfgHeight (a : Access)
  /-- REG_CFG_COLSTART (R236, R237), offset 0x10. -/
  | regCfgColstart (a : Access)
  /-- REG_CFG_ROWSTART (R236, R237), offset 0x14. -/
  | regCfgRowstart (a : Access)
  /-- REG_CFG_MODE (R236, R237), offset 0x18. -/
  | regCfgMode (a : Access)
  /-- REG_GEOM_WIDTH (R237, R239), offset 0x1C. -/
  | regGeomWidth (a : Access)
  /-- REG_GEOM_HEIGHT (R237, R239), offset 0x20. -/
  | regGeomHeight (a : Access)
  /-- REG_GEOM_COLSTART (R237, R239), offset 0x24. -/
  | regGeomColstart (a : Access)
  /-- REG_GEOM_ROWSTART (R237, R239), offset 0x28. -/
  | regGeomRowstart (a : Access)
  /-- REG_PIX_X (R266), offset 0x2C. -/
  | regPixX (a : Access)
  /-- REG_PIX_Y (R266), offset 0x30. -/
  | regPixY (a : Access)
  /-- REG_PIX_COLOR (R266), offset 0x34. -/
  | regPixColor (a : Access)
  /-- REG_RESERVED_38 (R45, R239). -/
  | regReserved38 (a : Access)
  /-- REG_RESERVED_3C (R45, R239). -/
  | regReserved3C (a : Access)
  /-- COUNT (R190): the record count N. -/
  | count (n : Byte)
  /-- REC (R183): a record with the delay flag clear. -/
  | recPlain (opc : Byte) (args : List Byte)
  /-- REC_D (R184): a record with the delay flag set, and its raw delay byte. -/
  | recD (opc : Byte) (args : List Byte) (dly : Byte)
  /-- DLY_500 (R185): the delay byte 0xFF. -/
  | dly500
  /-- DLY_MS (R185): any other delay byte. -/
  | dlyMs (d : Byte)
  /-- CASET (R293): column address set. -/
  | caset
  /-- RASET (R294): row address set. -/
  | raset
  /-- RAMWR (R295, R296): memory write and its pixel stream. -/
  | ramwr
  /-- MADCTL (R230): mode configuration. -/
  | madctl
  /-- INVON (R231): invert colors on. -/
  | invon
deriving DecidableEq, Repr

/-- The instruction a decoded record is: REC when it has no delay, REC_D when it has one (R135). -/
def Record.instr (r : Record) : Instr :=
  match r.delay with
  | none => .recPlain r.opcode r.args
  | some d => .recD r.opcode r.args d

/-- The formats of R110 that instructions are encoded in. -/
inductive Format where
  | hostCmd
  | hostReg
  | img
  | scriptRecord
  | wcmd
deriving DecidableEq, Repr

/-- The format column of spec/opcode_table.json. -/
def Instr.format : Instr → Format
  | .setup _ | .update _ | .setPixel _ | .reservedOp _ _ => .hostCmd
  | .regCmd _ | .regStatus _ | .regCfgWidth _ | .regCfgHeight _ | .regCfgColstart _ | .regCfgRowstart _
  | .regCfgMode _ | .regGeomWidth _ | .regGeomHeight _ | .regGeomColstart _ | .regGeomRowstart _
  | .regPixX _ | .regPixY _ | .regPixColor _ | .regReserved38 _ | .regReserved3C _ => .hostReg
  | .count _ => .img
  | .recPlain _ _ | .recD _ _ _ | .dly500 | .dlyMs _ => .scriptRecord
  | .caset | .raset | .ramwr | .madctl | .invon => .wcmd

/-- The format an encoded instruction is in. -/
def Code.format : Code → Format
  | .hostCmd _ => .hostCmd
  | .hostReg _ => .hostReg
  | .header _ => .img
  | .record _ | .delay _ => .scriptRecord
  | .wire _ => .wcmd

end Sys2Proof
end

