-- ==== Sys2Proof/Machine/State.lean ====
section
/-! DEFINITION. The state of the engine (10_state.md R30 to R56), as plain data, and its reset value. -/

namespace Sys2Proof.Machine

/-- The lifecycle states of STATUS.STATE (R34). Code 7 is never held. -/
inductive Phase where
  | uninit
  | resetting
  | playingInit
  | configMode
  | ready
  | transmitting
  | failed
deriving DecidableEq, Repr

/-- The five errors of R320. -/
inductive Err where
  | config
  | script
  | state
  | busy
  | op
deriving DecidableEq, Repr

/-- The wire events of R16. A level is true for 1. -/
inductive WireEvent where
  /-- SEL: chip select asserted (R151). -/
  | sel
  /-- DESEL: chip select released (R152). -/
  | desel
  /-- CMD(b): byte b clocked out with DC at the command level (R153). -/
  | cmd (b : Byte)
  /-- DAT(b): byte b clocked out with DC at the data level (R154). -/
  | dat (b : Byte)
  /-- RST(l): reset line driven to level l (R157). -/
  | rst (l : Bool)
  /-- WAIT(ms): the sequencer idles at least ms milliseconds (R162). -/
  | wait (ms : Nat)
deriving DecidableEq, Repr

/-- The command frames the engine generates itself (R123, R135). -/
inductive Frame where
  | caset
  | raset
  | ramwr
  | madctl
  | invon
deriving DecidableEq, Repr

/-- One element of `s.pending` (R47): a wire event or a state update that the accepted operation has still to
perform, or a place where the sequencer reads its next instruction. -/
inductive Micro where
  /-- Emit a wire event. -/
  | emit (e : WireEvent)
  /-- `s.state <- ph`. -/
  | enter (ph : Phase)
  /-- The head of Play() (R180): `s.state <- PLAYING_INIT`, then read the script header and perform COUNT. -/
  | playCount
  /-- The loop test of Play() (R180): while `s.recLeft > 0`, read the record at `pc` and perform it. When no record is
  left, the test is no step of its own: SETUP goes straight on, writing GEOM_* and setting STATE to CONFIG_MODE in this
  step (R188, R229). -/
  | playNext
  /-- A REC_D's delay byte, read and performed after its DESEL (R184, R185). -/
  | delay (d : Byte)
  /-- `pc <- pc + n`, the last line of PlayRec() and PlayRecD() (R183, R184). -/
  | advance (n : Nat)
  /-- `s.recLeft <- s.recLeft - 1` (R180). -/
  | recordDone
  /-- A frame the engine generates. -/
  | frame (f : Frame)
  /-- SETUP clears the active part of FB (R232). -/
  | clearFb
deriving DecidableEq, Repr

/-- The pixel buffer `s.fb` (R49): the bytes that differ from what an unlisted address reads as, by rising
address. `zeroed` and `epoch` are the model's own (log 4): an unlisted byte reads 0 below `zeroed` (SETUP cleared
it, R232) and is the free value of block reset number `epoch` elsewhere (R56). -/
structure Fb where
  cells : List Host.Cell
  zeroed : Nat
  epoch : Nat
deriving DecidableEq, Repr

/-- One item of the host's program (R133, R134). -/
inductive HostOp where
  /-- One register access. -/
  | access (a : HostAccess)
  /-- `wait_idle`: repeat `rd STATUS` until bit 3 of the value read is 0 (R134). -/
  | waitIdle
deriving DecidableEq, Repr

/-- Who moves in one step (R8, R96). -/
inductive Turn where
  /-- The host performs the next access of its program. -/
  | host
  /-- The sequencer performs its next step; where that step clocks out a byte, the transport completes it. -/
  | sequencer
  /-- Nobody moves: a byte transfer or a wait has not completed (R160, R162). -/
  | stall
  /-- The block reset input (R360). -/
  | blockReset
deriving DecidableEq, Repr

/-- The faults of a step: an access to an address the spec says does not exist. Safe: the model stops, and no
state that a run from reset reaches raises one (log 9). -/
inductive Fault where
  /-- Raised by SET_PIXEL, RAMWR and the buffer clear: an FB offset at or beyond P_BUF_BYTES (R80, R263). Safe. -/
  | fbOutOfRange
  /-- Raised by the sequencer's script reads: a ROM offset at or beyond P_SCRIPT_LEN (R15, R181). Safe. -/
  | romOutOfRange
deriving DecidableEq, Repr

/-- The refusals of a step. -/
inductive Refusal where
  /-- Raised by `exec` for an instruction that has no meaning yet. Safe. No arm raises it. -/
  | notModelled (mnemonic : String)
  /-- Raised by a host access of 8 or 16 bits, to which R82 gives no meaning. Safe. -/
  | subwordAccess
  /-- Raised by a host access at an offset that is not a multiple of 4, to which R82 gives no meaning. Safe. -/
  | misalignedAccess
deriving DecidableEq, Repr

/-- The state of the machine. -/
structure State where
  /-- STATUS.STATE (R33, R34). -/
  phase : Phase
  /-- STATUS[8:4], the sticky ERR bits (R33, R36): bit 0 here is STATUS bit 4. -/
  err : BitVec 5
  /-- CFG_WIDTH (R37). -/
  cfgWidth : Half
  /-- CFG_HEIGHT (R38). -/
  cfgHeight : Half
  /-- CFG_COLSTART (R39). -/
  cfgColstart : Half
  /-- CFG_ROWSTART (R40). -/
  cfgRowstart : Half
  /-- CFG_MODE (R41). -/
  cfgMode : BitVec 6
  /-- GEOM_WIDTH (R42). -/
  geomWidth : Half
  /-- GEOM_HEIGHT (R42). -/
  geomHeight : Half
  /-- GEOM_COLSTART (R42). -/
  geomColstart : Half
  /-- GEOM_ROWSTART (R42). -/
  geomRowstart : Half
  /-- PIX_X (R43). -/
  pixX : Half
  /-- PIX_Y (R43). -/
  pixY : Half
  /-- PIX_COLOR (R44). -/
  pixColor : Rgb
  /-- `pc`, the script read pointer (R46). -/
  pc : Half
  /-- `s.recLeft`, the records still to play (R47). -/
  recLeft : Byte
  /-- `s.pending` (R47). -/
  pending : List Micro
  /-- `s.fb`, the pixel buffer (R49). -/
  fb : Fb
  /-- `s.cs_n`, the level of CS_N (R50). -/
  csN : Bool
  /-- `s.dc`, the level of DC (R51). -/
  dc : Bool
  /-- `s.rst`, the level of RST (R50). -/
  rst : Bool
  /-- `s.trace` (R52), newest event first; `State.trace` gives it in the order of emission. -/
  wireLog : List WireEvent
  /-- The script ROM: P_SCRIPT, constant (R80, R101). -/
  rom : List Byte
  /-- The parameters of R10 and R11, constant. -/
  par : Config.Params
  /-- The model's own (log 10): the traces that block resets have ended, newest first, each in order of emission. -/
  history : List (List WireEvent)
  /-- The model's own (log 3): the host's accesses still to perform, in program order. -/
  hostProgram : List HostOp
  /-- The model's own (log 3): who moves in each coming step. -/
  agenda : List Turn
  /-- The model's own (log 7): the values that host reads have returned, newest first. -/
  hostReads : List Word
deriving DecidableEq, Repr

/-- The machine after block reset, every element at its value in R54. FB holds its free value (log 4), `pc` and
`s.recLeft`, which R54 leaves unspecified, hold 0 (log 5), and no host access is waiting (log 12). -/
def State.reset : State where
  phase := .uninit
  err := 0
  cfgWidth := 0
  cfgHeight := 0
  cfgColstart := 0
  cfgRowstart := 0
  cfgMode := 0
  geomWidth := 0
  geomHeight := 0
  geomColstart := 0
  geomRowstart := 0
  pixX := 0
  pixY := 0
  pixColor := 0
  pc := 0
  recLeft := 0
  pending := []
  fb := ⟨[], 0, 0⟩
  csN := true
  dc := false
  rst := true
  wireLog := []
  rom := Config.script
  par := Config.params
  history := []
  hostProgram := []
  agenda := []
  hostReads := []

end Sys2Proof.Machine
end

