-- ==== Sys2Proof/Machine/Flags.lean ====
section
/-! DEFINITION. The status flags (10_state.md R33 to R36): the lifecycle code, BUSY, the ERR bits and the STATUS
word. The engine has no other flags and no operation computes one (R53). -/

namespace Sys2Proof.Machine

/-- The code of a lifecycle state in STATUS[2:0] (R34). -/
def Phase.code : Phase → BitVec 3
  | .uninit => 0
  | .resetting => 1
  | .playingInit => 2
  | .configMode => 3
  | .ready => 4
  | .transmitting => 5
  | .failed => 6

/-- BUSY = 1 exactly when STATE is RESETTING, PLAYING_INIT, CONFIG_MODE or TRANSMITTING (R35). -/
def Phase.busy : Phase → Bool
  | .resetting | .playingInit | .configMode | .transmitting => true
  | .uninit | .ready | .failed => false

/-- The ERR bit of an error, as its place in STATUS[8:4] (R320): CONFIG is STATUS bit 4, OP is STATUS bit 8. -/
def Err.mask : Err → BitVec 5
  | .config => 0b00001
  | .script => 0b00010
  | .state => 0b00100
  | .busy => 0b01000
  | .op => 0b10000

/-- The value of BUSY as a bit. -/
def State.busyBit (s : State) : BitVec 1 := BitVec.ofBool s.phase.busy

/-- `rd STATUS`: `{0[22:0], s.err[4:0], busy(s.state), s.state[2:0]}` (R238). -/
def State.status (s : State) : Word := 0#23 ++ s.err ++ s.busyBit ++ s.phase.code

end Sys2Proof.Machine
end

