-- ==== Sys2Proof/WellFormed.lean ====
section
/-! DEFINITION. Which terms of Instr stand for an instruction the encodings admit. -/

namespace Sys2Proof

/-- The operand checks: a reserved operation code is one that R113 reserves, a record has at most 127 arguments
(R117), and the delay byte of DLY_MS is not the sentinel 255 (R119). Every other operand admits every value of
its field. -/
def Instr.wellFormed : Instr → Bool
  | .reservedOp op _ => decide (op = 0 ∨ 4 ≤ op.toNat)
  | .recPlain _ args => decide (args.length ≤ 127)
  | .recD _ args _ => decide (args.length ≤ 127)
  | .dlyMs d => decide (d ≠ 255)
  | .setup _ | .update _ | .setPixel _
  | .regCmd _ | .regStatus _ | .regCfgWidth _ | .regCfgHeight _ | .regCfgColstart _ | .regCfgRowstart _
  | .regCfgMode _ | .regGeomWidth _ | .regGeomHeight _ | .regGeomColstart _ | .regGeomRowstart _
  | .regPixX _ | .regPixY _ | .regPixColor _ | .regReserved38 _ | .regReserved3C _
  | .count _ | .dly500 | .caset | .raset | .ramwr | .madctl | .invon => true

/-- The bound of R192 on a decoded record: at most 127 arguments. -/
def Record.wellFormed (r : Record) : Bool := decide (r.args.length ≤ 127)

/-- The bounds of R192 on a list of decoded records: at most 255 records, each within its bound. -/
def recordsWellFormed (rs : List Record) : Bool := decide (rs.length ≤ 255) && rs.all Record.wellFormed

end Sys2Proof
end

