-- ==== Sys2Proof/Decode.lean ====
section
/-! DEFINITION. Decoding and encoding, from the formats of 30_encoding.md R110 (R111 to R123, R135). -/

namespace Sys2Proof

/-- Why a decoder refuses. -/
inductive DecodeError where
  /-- A host access of 8 or 16 bits (R82). -/
  | subword
  /-- A host access at an offset that is not a multiple of 4 (R82). -/
  | misaligned
  /-- A record whose bytes end before its length (R118, R121). -/
  | truncated
  /-- Bytes after the end of a record or of an image (R121). -/
  | trailing
  /-- A byte that is none of the engine's five command bytes (R123). -/
  | notAFrame
deriving DecidableEq, Repr

/-! ## Bit fields -/

/-- ARGC = CF[6:0] (R117). -/
def argc (cf : Byte) : Nat := (cf.extractLsb' 0 7).toNat

/-- D = CF[7], the delay flag (R117). -/
def delayFlag (cf : Byte) : Bool := cf.getLsbD 7

/-- `len(a) = 2 + ARGC + D`, the length of the record whose CF byte this is (R118). -/
def recordLen (cf : Byte) : Nat := 2 + argc cf + (if delayFlag cf then 1 else 0)

/-- OP = v[7:0] of the value written to CMD (R111). -/
def opField (v : Word) : Byte := v.extractLsb' 0 8

/-- Bits [31:8] of the value written to CMD, which the engine ignores (R111). -/
def ignoredField (v : Word) : BitVec 24 := v.extractLsb' 8 24

/-! ## Decoders, one per encoded input of R135 -/

/-- A HOSTCMD word is decoded by OP alone (R112, R113, R135). -/
def decodeHostCmd (v : Word) : Instr :=
  match (opField v).toNat with
  | 0x01 => .setup (ignoredField v)
  | 0x02 => .update (ignoredField v)
  | 0x03 => .setPixel (ignoredField v)
  | _ => .reservedOp (opField v) (ignoredField v)

/-- The operand of a HOSTREG row: the data of a read is not part of it. -/
def HostAccess.access (a : HostAccess) : Access :=
  match a.dir with
  | .read => .read
  | .write => .write a.data

/-- A HOSTREG access is decoded by offset and direction (R31, R135); one that is not 32 bits wide or not at a
multiple of 4 is refused (R82). -/
def decodeHostReg (a : HostAccess) : Except DecodeError Instr :=
  match a.width with
  | .bits8 | .bits16 => .error .subword
  | .bits32 =>
    match a.offset.toNat with
    | 0x00 => .ok (.regCmd a.access)
    | 0x04 => .ok (.regStatus a.access)
    | 0x08 => .ok (.regCfgWidth a.access)
    | 0x0C => .ok (.regCfgHeight a.access)
    | 0x10 => .ok (.regCfgColstart a.access)
    | 0x14 => .ok (.regCfgRowstart a.access)
    | 0x18 => .ok (.regCfgMode a.access)
    | 0x1C => .ok (.regGeomWidth a.access)
    | 0x20 => .ok (.regGeomHeight a.access)
    | 0x24 => .ok (.regGeomColstart a.access)
    | 0x28 => .ok (.regGeomRowstart a.access)
    | 0x2C => .ok (.regPixX a.access)
    | 0x30 => .ok (.regPixY a.access)
    | 0x34 => .ok (.regPixColor a.access)
    | 0x38 => .ok (.regReserved38 a.access)
    | 0x3C => .ok (.regReserved3C a.access)
    | _ => .error .misaligned

/-- Byte 0 of the image is the record count (R115). -/
def decodeCount (b : Byte) : Instr := .count b

/-- The first `k` bytes and the rest, when there are that many. -/
def takeExact (k : Nat) (bs : List Byte) : Option (List Byte × List Byte) :=
  if (bs.take k).length = k then some (bs.take k, bs.drop k) else none

/-- Read one record from the front of a byte list, and give back the bytes after it (R114, R117, R118, R120). -/
def decodeRecord (bs : List Byte) : Except DecodeError (Record × List Byte) :=
  match bs with
  | opc :: cf :: rest =>
    match takeExact (argc cf) rest with
    | none => .error .truncated
    | some (args, tail) =>
      if delayFlag cf then
        match tail with
        | d :: after => .ok (⟨opc, args, some d⟩, after)
        | [] => .error .truncated
      else .ok (⟨opc, args, none⟩, tail)
  | _ => .error .truncated

/-- A REC_D's DLY byte is decoded into one of two delay forms (R119, R135). -/
def decodeDelay (d : Byte) : Instr :=
  if d = Config.delaySentinel then .dly500 else .dlyMs d

/-- The frame whose command byte this is (R123). The engine itself decodes no wire byte (R135). Of two equal command bytes,
which R11 rules out, the first of the list is taken (DESIGN CHOICE, log 24). -/
def decodeWire (p : Config.Params) (b : Byte) : Except DecodeError Instr :=
  if b = p.cmdCaset then .ok .caset
  else if b = p.cmdRaset then .ok .raset
  else if b = p.cmdRamwr then .ok .ramwr
  else if b = p.cmdMadctl then .ok .madctl
  else if b = p.cmdInvon then .ok .invon
  else .error .notAFrame

/-- The decoder, total on every encoded form. -/
def decode (p : Config.Params) (c : Code) : Except DecodeError Instr :=
  match c with
  | .hostCmd v => .ok (decodeHostCmd v)
  | .hostReg a => decodeHostReg a
  | .header b => .ok (decodeCount b)
  | .record bs =>
    match decodeRecord bs with
    | .ok (r, []) => .ok r.instr
    | .ok (_, _ :: _) => .error .trailing
    | .error e => .error e
  | .delay b => .ok (decodeDelay b)
  | .wire b => decodeWire p b

/-! ## Encoders -/

/-- A HOSTCMD word: `{ignored, OP}` (R111). -/
def hostCmdWord (ignored : BitVec 24) (op : Byte) : Word := ignored ++ op

/-- A HOSTREG access at an offset. -/
def hostRegAccess (offset : BitVec 6) (a : Access) : HostAccess :=
  match a with
  | .read => ⟨.read, offset, 0, .bits32⟩
  | .write v => ⟨.write, offset, v, .bits32⟩

/-- The CF byte `(0x80 if r.delay ≠ none else 0x00) | len(r.args)` (R192). R192 defines it for at most 127 arguments. For more,
the low 8 bits of the length are taken and its bit 7 runs into the delay flag (DESIGN CHOICE, log 24). -/
def cfByte (r : Record) : Byte :=
  (if r.delay.isSome then 0x80#8 else 0x00#8) ||| BitVec.ofNat 8 r.args.length

/-- A record's bytes: opcode, CF, the arguments, and the raw delay byte if present (R192). For more than 127 arguments, which
R192 leaves undefined, they are the bytes that `cfByte` gives (DESIGN CHOICE, log 24). -/
def encodeRecord (r : Record) : List Byte :=
  r.opcode :: cfByte r :: (r.args ++ r.delay.toList)

/-- The encoder: the words of a well-formed instruction, from the same formats. What it gives for an ill-formed term is no
encoding of it (DESIGN CHOICE, log 24). -/
def encode (p : Config.Params) (i : Instr) : Code :=
  match i with
  | .setup g => .hostCmd (hostCmdWord g 0x01)
  | .update g => .hostCmd (hostCmdWord g 0x02)
  | .setPixel g => .hostCmd (hostCmdWord g 0x03)
  | .reservedOp op g => .hostCmd (hostCmdWord g op)
  | .regCmd a => .hostReg (hostRegAccess 0x00 a)
  | .regStatus a => .hostReg (hostRegAccess 0x04 a)
  | .regCfgWidth a => .hostReg (hostRegAccess 0x08 a)
  | .regCfgHeight a => .hostReg (hostRegAccess 0x0C a)
  | .regCfgColstart a => .hostReg (hostRegAccess 0x10 a)
  | .regCfgRowstart a => .hostReg (hostRegAccess 0x14 a)
  | .regCfgMode a => .hostReg (hostRegAccess 0x18 a)
  | .regGeomWidth a => .hostReg (hostRegAccess 0x1C a)
  | .regGeomHeight a => .hostReg (hostRegAccess 0x20 a)
  | .regGeomColstart a => .hostReg (hostRegAccess 0x24 a)
  | .regGeomRowstart a => .hostReg (hostRegAccess 0x28 a)
  | .regPixX a => .hostReg (hostRegAccess 0x2C a)
  | .regPixY a => .hostReg (hostRegAccess 0x30 a)
  | .regPixColor a => .hostReg (hostRegAccess 0x34 a)
  | .regReserved38 a => .hostReg (hostRegAccess 0x38 a)
  | .regReserved3C a => .hostReg (hostRegAccess 0x3C a)
  | .count n => .header n
  | .recPlain opc args => .record (encodeRecord ⟨opc, args, none⟩)
  | .recD opc args d => .record (encodeRecord ⟨opc, args, some d⟩)
  | .dly500 => .delay 0xFF
  | .dlyMs d => .delay d
  | .caset => .wire p.cmdCaset
  | .raset => .wire p.cmdRaset
  | .ramwr => .wire p.cmdRamwr
  | .madctl => .wire p.cmdMadctl
  | .invon => .wire p.cmdInvon

/-! ## The whole script image (R114, R121, R181, R182, R192) -/

/-- Byte `a` of the image (`MemRead(ROM, a, 1)`, R15). Callers check `a < P_SCRIPT_LEN` first;
beyond it the value is 0 (DESIGN CHOICE, log 24). -/
def romByte (rom : List Byte) (a : Nat) : Byte := rom.getD a 0

/-- The loop of `Validate()` (R181): from offset `a`, pass over `n` records; `none` is MALFORMED. -/
def scanRecords (rom : List Byte) : Nat → Nat → Option Nat
  | 0, a => some a
  | n + 1, a =>
    if a + 1 ≥ rom.length then none
    else if a + recordLen (romByte rom (a + 1)) > rom.length then none
    else scanRecords rom n (a + recordLen (romByte rom (a + 1)))

/-- `Validate()` (R181): true is OK, false is MALFORMED. -/
def validate (rom : List Byte) : Bool :=
  if rom.length < 1 then false
  else
    match scanRecords rom (romByte rom 0).toNat 1 with
    | none => false
    | some a => decide (a = rom.length)

/-- Read `n` records from the front of a byte list. -/
def decodeRecords : Nat → List Byte → Except DecodeError (List Record × List Byte)
  | 0, bs => .ok ([], bs)
  | n + 1, bs =>
    match decodeRecord bs with
    | .error e => .error e
    | .ok (r, rest) =>
      match decodeRecords n rest with
      | .error e => .error e
      | .ok (rs, tail) => .ok (r :: rs, tail)

/-- `decode(P_SCRIPT)` (R182). It is defined for well-formed images; any other is refused by name (DESIGN CHOICE, log 24). -/
def decodeImage (rom : List Byte) : Except DecodeError (List Record) :=
  match rom with
  | [] => .error .truncated
  | n :: rest =>
    match decodeRecords n.toNat rest with
    | .error e => .error e
    | .ok (rs, []) => .ok rs
    | .ok (_, _ :: _) => .error .trailing

/-- `encode(list)` (R192): the count byte, then the records. R192 defines it for at most 255 records of at most 127 arguments.
For a longer list the count byte keeps the low 8 bits of the length (DESIGN CHOICE, log 24). -/
def encodeImage (rs : List Record) : List Byte :=
  BitVec.ofNat 8 rs.length :: rs.flatMap encodeRecord

/-! ## Assembly (R132, R133, R134) -/

/-- The delay operand `delay n ms` of a script assembly line: `none` where it has no encoding (R119, R132). -/
def assembleDelay (ms : Nat) : Option Byte :=
  if ms = Config.delaySentinelMs then some Config.delaySentinel
  else if ms ≤ 254 then some (BitVec.ofNat 8 ms)
  else none

/-- `wr NAME, value` at the register's offset (R133). -/
def wr (offset : BitVec 6) (v : Word) : HostAccess := ⟨.write, offset, v, .bits32⟩

/-- `rd NAME` at the register's offset (R133). -/
def rd (offset : BitVec 6) : HostAccess := ⟨.read, offset, 0, .bits32⟩

/-- `op SETUP`, `op UPDATE`, `op SET_PIXEL` (R134), by operation code. -/
def opLine (op : Byte) : List HostAccess := [wr 0x00 (op.setWidth 32)]

/-- `setpixel x, y, c` (R134). -/
def setpixelLine (x y : Int) (c : Rgb) : List HostAccess :=
  [wr 0x2C ((BitVec.ofInt 16 x).setWidth 32), wr 0x30 ((BitVec.ofInt 16 y).setWidth 32),
   wr 0x34 (c.setWidth 32)] ++ opLine 0x03

/-- `config w, h, cs, rs, mode` (R134). -/
def configLine (w h cs rs mode : Word) : List HostAccess :=
  [wr 0x08 w, wr 0x0C h, wr 0x10 cs, wr 0x14 rs, wr 0x18 mode]

/-! ## The opcode table's words (log 12) -/

/-- The encoded form that a word of spec/opcode_table.json stands for. The table gives a row's bits without its
format, and two of its bytes stand for two rows each; a byte is read as a HOSTCMD code, a HOSTREG offset, an
engine command byte, the delay byte 0xFF or a record's CF byte, the first that fits, and every bit above it is 0
(a read, no data, OPC and arguments 0, DLY 0). -/
def tableCode (nbits w : Nat) : Code :=
  if nbits = 0 then .header 0
  else if nbits > 8 then .hostCmd (BitVec.ofNat 32 w)
  else
    let b : Byte := BitVec.ofNat 8 w
    if 1 ≤ b.toNat ∧ b.toNat ≤ 3 then .hostCmd (b.setWidth 32)
    else if b.toNat < 0x40 ∧ b.toNat % 4 = 0 then .hostReg (rd (b.setWidth 6))
    else
      match decodeWire Config.params b with
      | .ok _ => .wire b
      | .error _ =>
        if b = Config.delaySentinel then .delay b
        else .record (0 :: b :: List.replicate (recordLen b - 2) 0)

/-- The instruction the decoder reads from an instruction whose bits are `w`, numbered as the table numbers them. -/
def decodeTableWord (nbits w : Nat) : Option Instr :=
  (decode Config.params (tableCode nbits w)).toOption

end Sys2Proof
end

