-- ==== Sys2Proof/Machine/Operands.lean ====
section
/-! DEFINITION. The operand forms and the functions of operands: CFG_MODE fields, geometry, the mode byte, the
address translator, the colour converters and the delay forms. -/

namespace Sys2Proof.Machine

/-! ## Byte halves (R13) -/

/-- `hi8(v) = v[15:8]`. -/
def hi8 (v : Half) : Byte := v.extractLsb' 8 8

/-- `lo8(v) = v[7:0]`. -/
def lo8 (v : Half) : Byte := v.extractLsb' 0 8

/-- `WADDR(s, e)`: `hi8(s), lo8(s), hi8(e), lo8(e)` (R124). -/
def waddr (first last : Half) : List Byte := [hi8 first, lo8 first, hi8 last, lo8 last]

/-! ## CFG_MODE fields (R41) -/

/-- CFG_MODE[0], FMT8: Indexed8 rather than RGB565. -/
def State.fmt8 (s : State) : Bool := s.cfgMode.getLsbD 0

/-- CFG_MODE[1], BGR. -/
def State.bgr (s : State) : Bool := s.cfgMode.getLsbD 1

/-- CFG_MODE[2], INVERT. -/
def State.invert (s : State) : Bool := s.cfgMode.getLsbD 2

/-- CFG_MODE[3], MIRROR_X. -/
def State.mirrorX (s : State) : Bool := s.cfgMode.getLsbD 3

/-- CFG_MODE[4], MIRROR_Y. -/
def State.mirrorY (s : State) : Bool := s.cfgMode.getLsbD 4

/-- CFG_MODE[5], RST_PRESENT. -/
def State.rstPresent (s : State) : Bool := s.cfgMode.getLsbD 5

/-- bpp: 1 for Indexed8 and 2 for RGB565 (R260). -/
def State.bpp (s : State) : Nat := if s.fmt8 then 1 else 2

/-- A flag as a byte. -/
def flagByte (b : Bool) : Byte := if b then 1 else 0

/-- The mode byte (R125): MIRROR_Y, MIRROR_X and BGR at their parameter positions, every other bit 0. -/
def State.modeByte (s : State) : Byte :=
  (flagByte s.mirrorY <<< s.par.madctlMyBit.val) ||| (flagByte s.mirrorX <<< s.par.madctlMxBit.val) |||
    (flagByte s.bgr <<< s.par.madctlBgrBit.val)

/-! ## Geometry (R226 to R228) -/

/-- A resolved geometry `g = (w, h, cs, rs)` (R226). -/
structure Geometry where
  w : Half
  h : Half
  cs : Half
  rs : Half
deriving DecidableEq, Repr

/-- A requested value, or its default where it is 0 (R226). -/
def orDefault (requested default : Half) : Half := if requested = 0 then default else requested

/-- `ResolveGeometry()` (R226): each field defaulted on its own. -/
def State.resolveGeometry (s : State) : Geometry where
  w := orDefault s.cfgWidth Config.defWidth
  h := orDefault s.cfgHeight Config.defHeight
  cs := orDefault s.cfgColstart Config.defColstart
  rs := orDefault s.cfgRowstart Config.defRowstart

/-- The GEOM_* registers as one value (R42). -/
def State.geom (s : State) : Geometry := ⟨s.geomWidth, s.geomHeight, s.geomColstart, s.geomRowstart⟩

/-- `w × h × bpp`, exact (R130): the active length of FB for a geometry (R228, R260). -/
def Geometry.bytes (g : Geometry) (bpp : Nat) : Nat := g.w.toNat * g.h.toNat * bpp

/-- `GeometryValid(g)` (R227) with the capacity condition of R228; sums and the product are exact (R130). -/
def State.geometryValid (s : State) (g : Geometry) : Bool :=
  decide (1 ≤ g.w.toNat) && decide (1 ≤ g.h.toNat) &&
  decide (g.cs.toNat + g.w.toNat ≤ s.par.physCols) && decide (g.rs.toNat + g.h.toNat ≤ s.par.physRows) &&
  decide (g.bytes s.bpp ≤ s.par.bufBytes)

/-- The active part of FB: bytes `0 .. GEOM_WIDTH × GEOM_HEIGHT × bpp - 1` (R49). -/
def State.activeLen (s : State) : Nat := s.geom.bytes s.bpp

/-! ## The window (R292) -/

/-- A window edge `start + size - 1`, computed exactly and sent as 16 bits (R130, R292). -/
def windowEnd (start size : Half) : Half := BitVec.ofInt 16 ((start.toNat : Int) + size.toNat - 1)

/-- x1 = columnStart (R292). -/
def State.x1 (s : State) : Half := s.geomColstart

/-- x2 = x1 + width - 1 (R292). -/
def State.x2 (s : State) : Half := windowEnd s.geomColstart s.geomWidth

/-- y1 = rowStart (R292). -/
def State.y1 (s : State) : Half := s.geomRowstart

/-- y2 = y1 + height - 1 (R292). -/
def State.y2 (s : State) : Half := windowEnd s.geomRowstart s.geomHeight

/-! ## SET_PIXEL operands and the address translator (R129, R263, R264) -/

/-- x = sext_32(PIX_X[15:0]) as an integer (R129). -/
def State.pixelX (s : State) : Int := s.pixX.toInt

/-- y = sext_32(PIX_Y[15:0]) as an integer (R129). -/
def State.pixelY (s : State) : Int := s.pixY.toInt

/-- `inRange(x, y)` (R264). -/
def State.inRange (s : State) (x y : Int) : Bool :=
  decide (0 ≤ x) && decide (x < s.geomWidth.toNat) && decide (0 ≤ y) && decide (y < s.geomHeight.toNat)

/-- `off(x, y) = (x + y × GEOM_WIDTH) × bpp` (R263), for coordinates that are in range. A negative coordinate,
which no caller gives it, counts as 0 (DESIGN CHOICE, log 24). -/
def State.pixelOffset (s : State) (x y : Int) : Nat := (x.toNat + y.toNat * s.geomWidth.toNat) * s.bpp

/-! ## Colours (R126 to R128, R261, R262, R297, R298) -/

/-- R8 = c[23:16] (R126). -/
def red (c : Rgb) : Byte := c.extractLsb' 16 8

/-- G8 = c[15:8] (R126). -/
def green (c : Rgb) : Byte := c.extractLsb' 8 8

/-- B8 = c[7:0] (R126). -/
def blue (c : Rgb) : Byte := c.extractLsb' 0 8

/-- RGB888 from its channels (R126). -/
def rgb (r g b : Byte) : Rgb := r ++ g ++ b

/-- `q332(c)`, RGB888 to 3-3-2 by truncation (R261). -/
def q332 (c : Rgb) : Byte :=
  ((red c >>> 5) <<< 5) ||| ((green c >>> 5) <<< 2) ||| (blue c >>> 6)

/-- `q565(c)`, RGB888 to 5-6-5 by truncation (R262). -/
def q565 (c : Rgb) : Half :=
  (((red c).setWidth 16 >>> 3) <<< 11) ||| (((green c).setWidth 16 >>> 2) <<< 5) ||| ((blue c).setWidth 16 >>> 3)

/-- One field of the expansion: `(255 * v) div top` as a byte (R297). -/
def expandField (v top : Nat) : Byte := BitVec.ofNat 8 (255 * v / top)

/-- `e332(p)`, the reverse of the 3-3-2 quantisation (R297). -/
def e332 (p : Byte) : Rgb :=
  rgb (expandField (p.extractLsb' 5 3).toNat 7) (expandField (p.extractLsb' 2 3).toNat 7)
    (expandField (p.extractLsb' 0 2).toNat 3)

/-- `x332to565(p) = q565(e332(p))` (R298). -/
def x332to565 (p : Byte) : Half := q565 (e332 p)

/-! ## Delay forms (R185) -/

/-- `delayMs(d)`: 500 for the sentinel 255, else d (R119, R185). -/
def delayMs (d : Byte) : Nat := if d = Config.delaySentinel then Config.delaySentinelMs else d.toNat

end Sys2Proof.Machine
end

