-- ==== Sys2Proof/Machine/Ops.lean ====
section
/-! DEFINITION. The named operations over the pixel buffer, the registers, the wire and the sequencer; the
rejection of an access (the engine's only exception) and the block reset. -/

namespace Sys2Proof.Machine

/-! ## The pixel buffer (R15, R49, R80) -/

/-- What an unlisted byte of FB reads as: 0 where SETUP has cleared (R232), a free value elsewhere (R56). -/
def Fb.unlisted (m : Fb) (a : Nat) : Byte := if a < m.zeroed then 0 else Config.fbUnspecified m.epoch a

/-- The byte a cell list holds at an address, if it lists one. -/
def lookupCell (a : Nat) : List Host.Cell → Option Byte
  | [] => none
  | (b, v) :: cs => if a = b then some v else lookupCell a cs

/-- `MemRead(FB, a, 1)` (R15). -/
def Fb.read (m : Fb) (a : Nat) : Byte := (lookupCell a m.cells).getD (m.unlisted a)

/-- `MemRead(FB, a, 2) = {FB[a], FB[a+1]}`, big-endian (R15, R89). -/
def Fb.read16 (m : Fb) (a : Nat) : Half := m.read a ++ m.read (a + 1)

/-- List a byte at an address, or unlist the address, keeping addresses strictly rising. -/
def setCell (a : Nat) (v : Option Byte) : List Host.Cell → List Host.Cell
  | [] => v.toList.map (a, ·)
  | (b, w) :: cs =>
    if a < b then v.toList.map (a, ·) ++ (b, w) :: cs
    else if a = b then v.toList.map (a, ·) ++ cs
    else (b, w) :: setCell a v cs

/-- `MemWrite(FB, a, 1, v)` (R15). Writing what an unlisted address reads as removes the entry. -/
def Fb.write (m : Fb) (a : Nat) (v : Byte) : Fb :=
  { m with cells := setCell a (if v = m.unlisted a then none else some v) m.cells }

/-- `MemWrite(FB, a, 2, v)`: `FB[a] <- v[15:8]`, `FB[a+1] <- v[7:0]` (R15, R89). -/
def Fb.write16 (m : Fb) (a : Nat) (v : Half) : Fb := (m.write a (hi8 v)).write (a + 1) (lo8 v)

/-- Set the first `n` bytes to 0 (R232). -/
def Fb.clear (m : Fb) (n : Nat) : Fb :=
  { m with cells := m.cells.filter (fun c => decide (n ≤ c.1)), zeroed := max m.zeroed n }

/-- FB after a block reset: nothing listed, every byte a fresh free value (R54, R360). -/
def Fb.powerOn (m : Fb) : Fb := ⟨[], 0, m.epoch + 1⟩

/-- The canonical form: addresses strictly rising, no entry equal to what an unlisted address reads as. -/
def Fb.wf (m : Fb) : Bool :=
  decide (m.cells.Pairwise (fun c d => c.1 < d.1)) && m.cells.all (fun c => decide (c.2 ≠ m.unlisted c.1))

/-! ## The wire (R50 to R52, R151 to R162) -/

/-- `s.trace`: the wire events since the last block reset, in order of emission (R52). -/
def State.trace (s : State) : List WireEvent := s.wireLog.reverse

/-- `s.cs_n` after an event (R151, R152). -/
def WireEvent.csAfter (e : WireEvent) (csN : Bool) : Bool :=
  match e with
  | .sel => false
  | .desel => true
  | .cmd _ | .dat _ | .rst _ | .wait _ => csN

/-- `s.dc` after an event (R51, R153, R154). -/
def WireEvent.dcAfter (e : WireEvent) (p : Config.Params) (dc : Bool) : Bool :=
  match e with
  | .cmd _ => p.dcCmdLevel
  | .dat _ => !p.dcCmdLevel
  | .sel | .desel | .rst _ | .wait _ => dc

/-- `s.rst` after an event (R157). -/
def WireEvent.rstAfter (e : WireEvent) (rst : Bool) : Bool :=
  match e with
  | .rst l => l
  | .sel | .desel | .cmd _ | .dat _ | .wait _ => rst

/-- `emit E` with the line levels it leaves (R16, R151 to R157, R162). -/
def State.emit (e : WireEvent) (s : State) : State :=
  { s with
    csN := e.csAfter s.csN
    dc := e.dcAfter s.par s.dc
    rst := e.rstAfter s.rst
    wireLog := e :: s.wireLog }

/-- `writeBytes` as elements of `s.pending`: one DAT event per byte (R155). -/
def dataMicros (bs : List Byte) : List Micro := bs.map (fun b => .emit (.dat b))

/-- Begin an instruction of the sequencer: its first wire event is emitted in this step, and the rest of it goes
in front of `s.pending`, one element for each later step (R16, R47, log 6). -/
def State.begin (e : WireEvent) (rest : List Micro) (s : State) : State :=
  { s.emit e with pending := rest ++ s.pending }

/-! ## Host reads and the rejection of an access -/

/-- A host read returns a value and changes nothing of the engine (R83, log 7). -/
def State.returnRead (v : Word) (s : State) : State := { s with hostReads := v :: s.hostReads }

/-- `raise Err(E)` (R17, R322): the engine's one exception. The matching ERR bit is set, the bits already set stay
set, and nothing else changes. It saves no address and no operand (R320), and there is no handler and no return
(R325): the engine goes on in its current state. -/
def State.raise (e : Err) (s : State) : State := { s with err := s.err ||| e.mask }

/-- A SETUP rejected by its validation: `s.state <- FAILED; raise Err(E)` (R221, R222, R322). -/
def State.failSetup (e : Err) (s : State) : State := { s.raise e with phase := .failed }

/-- The acceptance check of a CMD write (R323), in the priority of R321: the error it is rejected with, or none. -/
def State.acceptance (op : Byte) (s : State) : Option Err :=
  if s.phase.busy then some .busy
  else if ¬(op = 0x01 ∨ op = 0x02 ∨ op = 0x03) then some .op
  else if op = 0x01 ∧ s.phase ≠ .uninit then some .state
  else if (op = 0x02 ∨ op = 0x03) ∧ s.phase ≠ .ready then some .state
  else none

/-! ## What an operation still has to perform -/

/-- `ResetPulse()` (R224). -/
def State.resetPulse (s : State) : List Micro :=
  if s.rstPresent then
    [.emit (.rst true), .emit (.wait Config.tRstHigh), .emit (.rst false), .emit (.wait Config.tRstLow),
     .emit (.rst true)]
  else []

/-- The steps of SETUP after its geometry is resolved: mode configuration, invert, buffer clear, READY (R221,
R230 to R233). -/
def State.configSteps (s : State) : List Micro :=
  .frame .madctl :: ((if s.invert then [.frame .invon] else []) ++ [.clearFb, .enter .ready])

/-- The steps of SETUP after `s.state <- RESETTING` (R221). BusSetup() is no step: it emits no event and changes no
state (R223). -/
def State.setupSteps (s : State) : List Micro :=
  s.resetPulse ++
    .emit (.wait Config.tStartup) :: .playCount :: .playNext :: s.configSteps

/-- The steps of UPDATE after `s.state <- TRANSMITTING` (R290). -/
def updateSteps : List Micro :=
  [.emit .sel, .frame .caset, .frame .raset, .frame .ramwr, .emit .desel, .enter .ready]

/-- SETUP once accepted (R221): validation first, then RESETTING. -/
def State.startSetup (s : State) : State :=
  if s.geometryValid s.resolveGeometry = false then s.failSetup .config
  else if validate s.rom = false then s.failSetup .script
  else { s with phase := .resetting, pending := s.setupSteps }

/-- UPDATE once accepted (R290). -/
def State.startUpdate (s : State) : State := { s with phase := .transmitting, pending := updateSteps }

/-- The start of playback: `s.state <- PLAYING_INIT` (R180), and `pc` is set to 0 (R46), where the next script byte to read
is byte 0, the header. COUNT, executed from there, sets `pc` to 1 (R180, R190). That both hold, one after the other, is
DEDUCED (log 22). -/
def State.startPlayback (s : State) : State := { s with phase := .playingInit, pc := 0 }

/-- The GEOM_* write and STATE ← CONFIG_MODE, in one step (R229). -/
def State.resolve (s : State) : State :=
  { s with
    geomWidth := s.resolveGeometry.w
    geomHeight := s.resolveGeometry.h
    geomColstart := s.resolveGeometry.cs
    geomRowstart := s.resolveGeometry.rs
    phase := .configMode }

/-- SET_PIXEL once accepted (R265): clipped, or one pixel written in this step. -/
def State.drawPixel (s : State) : Host.Outcome State Fault Refusal :=
  if s.inRange s.pixelX s.pixelY = false then .next s
  else if s.pixelOffset s.pixelX s.pixelY + s.bpp ≤ s.par.bufBytes then
    .next { s with
      fb :=
        if s.fmt8 then s.fb.write (s.pixelOffset s.pixelX s.pixelY) (q332 s.pixColor)
        else s.fb.write16 (s.pixelOffset s.pixelX s.pixelY) (q565 s.pixColor) }
  else .fault .fbOutOfRange

/-- The two wire bytes of pixel `p` (R290, R296, R298, R299): the expanded 3-3-2 byte, or the stored 5-6-5 value,
high byte first. -/
def State.pixelBytes (s : State) (p : Nat) : List Byte :=
  if s.fmt8 then [hi8 (x332to565 (s.fb.read p)), lo8 (x332to565 (s.fb.read p))]
  else [hi8 (s.fb.read16 (2 * p)), lo8 (s.fb.read16 (2 * p))]

/-- The pixel stream: pixels in increasing buffer index `0 .. W × H - 1` (R296). -/
def State.pixelStream (s : State) : List Byte :=
  (List.range (s.geomWidth.toNat * s.geomHeight.toNat)).flatMap s.pixelBytes

/-! ## Block reset (R360, R362) -/

/-- How the old trace ends when a block reset cuts an operation short (R362): DESEL if CS_N was 0, RST(1) if RST
was 0. -/
def State.closing (s : State) : List WireEvent :=
  (if s.csN then [] else [.desel]) ++ (if s.rst then [] else [.rst true])

/-- The block reset (R360, R362): every element of R54 at its reset value, the rest of `s.pending` discarded, the
old trace ended and kept as history (R52). The ROM and the parameters are not reset (R54); the model's own host
program, agenda and read log are not the engine's and stay. -/
def State.blockReset (s : State) : State :=
  { State.reset with
    fb := s.fb.powerOn
    rom := s.rom
    par := s.par
    history := (s.trace ++ s.closing) :: s.history
    hostProgram := s.hostProgram
    agenda := s.agenda
    hostReads := s.hostReads }

end Sys2Proof.Machine
end

