-- ==== Sys2Proof/Machine/HostCmd.lean ====
section
/-! DEFINITION. The HOSTCMD family: SETUP, UPDATE, SET_PIXEL and the reserved operation codes (R112, R113). -/

namespace Sys2Proof.Machine

/-- `WriteCMD(v)` with `op = v[7:0]` (R323): the acceptance check, then the operation. -/
def State.command (op : Byte) (s : State) : Host.Outcome State Fault Refusal :=
  match s.acceptance op with
  | some e => .next (s.raise e)
  | none =>
    if op = 0x01 then .next s.startSetup
    else if op = 0x02 then .next s.startUpdate
    else s.drawPixel

/-- SETUP (R221). Bits [31:8] are ignored (R111). -/
def execSetup (_ignored : BitVec 24) (s : State) : Host.Outcome State Fault Refusal := s.command 0x01

/-- UPDATE (R290). -/
def execUpdate (_ignored : BitVec 24) (s : State) : Host.Outcome State Fault Refusal := s.command 0x02

/-- SET_PIXEL (R265). -/
def execSetPixel (_ignored : BitVec 24) (s : State) : Host.Outcome State Fault Refusal := s.command 0x03

/-- RESERVED_OP (R113): rejected with ERR_OP, or with ERR_BUSY while an operation runs. -/
def execReservedOp (_op : Byte) (_ignored : BitVec 24) (s : State) : Host.Outcome State Fault Refusal :=
  .next (s.raise (if s.phase.busy then .busy else .op))

end Sys2Proof.Machine
end

