-- ==== Sys2Proof/Machine/HostReg.lean ====
section
/-! DEFINITION. The HOSTREG family: the sixteen register accesses (10_state.md R31, R55; R236 to R239, R266). -/

namespace Sys2Proof.Machine

/-! ## The access forms -/

/-- A register that a host reads and whose write is ignored: STATUS, GEOM_*, the reserved offsets (R33, R239). -/
def readOnlyAccess (value : Word) (a : Access) (s : State) : Host.Outcome State Fault Refusal :=
  match a with
  | .read => .next (s.returnRead value)
  | .write _ => .next s

/-- A CFG_* register: read at any time (R237), written only in UNINIT and otherwise rejected with ERR_STATE (R55,
R236). `written` is the state with the register written. -/
def configAccess (value : Word) (a : Access) (written : Word → State) (s : State) : Host.Outcome State Fault Refusal :=
  match a with
  | .read => .next (s.returnRead value)
  | .write v => if s.phase = .uninit then .next (written v) else .next (s.raise .state)

/-- A PIX_* staging register: read and written in every state (R266). -/
def stagingAccess (value : Word) (a : Access) (written : Word → State) (s : State) : Host.Outcome State Fault Refusal :=
  match a with
  | .read => .next (s.returnRead value)
  | .write v => .next (written v)

/-! ## The sixteen registers -/

/-- REG_CMD, offset 0x00 (R32, R323): a read returns 0; a write starts or rejects an operation. -/
def execRegCmd (a : Access) (s : State) : Host.Outcome State Fault Refusal :=
  match a with
  | .read => .next (s.returnRead 0)
  | .write v => s.command (opField v)

/-- REG_STATUS, offset 0x04 (R33, R238). -/
def execRegStatus (a : Access) (s : State) : Host.Outcome State Fault Refusal := readOnlyAccess s.status a s

/-- REG_CFG_WIDTH, offset 0x08 (R37, R236, R237): bits [15:0]. -/
def execRegCfgWidth (a : Access) (s : State) : Host.Outcome State Fault Refusal :=
  configAccess (s.cfgWidth.setWidth 32) a (fun v => { s with cfgWidth := v.extractLsb' 0 16 }) s

/-- REG_CFG_HEIGHT, offset 0x0C (R38, R236, R237): bits [15:0]. -/
def execRegCfgHeight (a : Access) (s : State) : Host.Outcome State Fault Refusal :=
  configAccess (s.cfgHeight.setWidth 32) a (fun v => { s with cfgHeight := v.extractLsb' 0 16 }) s

/-- REG_CFG_COLSTART, offset 0x10 (R39, R236, R237): bits [15:0]. -/
def execRegCfgColstart (a : Access) (s : State) : Host.Outcome State Fault Refusal :=
  configAccess (s.cfgColstart.setWidth 32) a (fun v => { s with cfgColstart := v.extractLsb' 0 16 }) s

/-- REG_CFG_ROWSTART, offset 0x14 (R40, R236, R237): bits [15:0]. -/
def execRegCfgRowstart (a : Access) (s : State) : Host.Outcome State Fault Refusal :=
  configAccess (s.cfgRowstart.setWidth 32) a (fun v => { s with cfgRowstart := v.extractLsb' 0 16 }) s

/-- REG_CFG_MODE, offset 0x18 (R41, R236, R237): bits [5:0]. -/
def execRegCfgMode (a : Access) (s : State) : Host.Outcome State Fault Refusal :=
  configAccess (s.cfgMode.setWidth 32) a (fun v => { s with cfgMode := v.extractLsb' 0 6 }) s

/-- REG_GEOM_WIDTH, offset 0x1C (R42, R237, R239). -/
def execRegGeomWidth (a : Access) (s : State) : Host.Outcome State Fault Refusal :=
  readOnlyAccess (s.geomWidth.setWidth 32) a s

/-- REG_GEOM_HEIGHT, offset 0x20 (R42, R237, R239). -/
def execRegGeomHeight (a : Access) (s : State) : Host.Outcome State Fault Refusal :=
  readOnlyAccess (s.geomHeight.setWidth 32) a s

/-- REG_GEOM_COLSTART, offset 0x24 (R42, R237, R239). -/
def execRegGeomColstart (a : Access) (s : State) : Host.Outcome State Fault Refusal :=
  readOnlyAccess (s.geomColstart.setWidth 32) a s

/-- REG_GEOM_ROWSTART, offset 0x28 (R42, R237, R239). -/
def execRegGeomRowstart (a : Access) (s : State) : Host.Outcome State Fault Refusal :=
  readOnlyAccess (s.geomRowstart.setWidth 32) a s

/-- REG_PIX_X, offset 0x2C (R43, R266): bits [15:0]. -/
def execRegPixX (a : Access) (s : State) : Host.Outcome State Fault Refusal :=
  stagingAccess (s.pixX.setWidth 32) a (fun v => { s with pixX := v.extractLsb' 0 16 }) s

/-- REG_PIX_Y, offset 0x30 (R43, R266): bits [15:0]. -/
def execRegPixY (a : Access) (s : State) : Host.Outcome State Fault Refusal :=
  stagingAccess (s.pixY.setWidth 32) a (fun v => { s with pixY := v.extractLsb' 0 16 }) s

/-- REG_PIX_COLOR, offset 0x34 (R44, R266): bits [23:0]. -/
def execRegPixColor (a : Access) (s : State) : Host.Outcome State Fault Refusal :=
  stagingAccess (s.pixColor.setWidth 32) a (fun v => { s with pixColor := v.extractLsb' 0 24 }) s

/-- REG_RESERVED_38, offset 0x38 (R45, R239): reads 0, write ignored. -/
def execRegReserved38 (a : Access) (s : State) : Host.Outcome State Fault Refusal := readOnlyAccess 0 a s

/-- REG_RESERVED_3C, offset 0x3C (R45, R239): reads 0, write ignored. -/
def execRegReserved3C (a : Access) (s : State) : Host.Outcome State Fault Refusal := readOnlyAccess 0 a s

end Sys2Proof.Machine
end

