-- ==== Sys2Proof/Machine/Script.lean ====
section
/-! DEFINITION. The script family: COUNT, the two record forms and the two delay forms (41_script.md). -/

namespace Sys2Proof.Machine

/-- COUNT (R190): `s.recLeft <- N; pc <- 1`. R46's 'sets it to 0 at the start' comes before it, in the same
step, where STATE becomes PLAYING_INIT (`State.startPlayback`; DEDUCED, log 22). -/
def execCount (n : Byte) (s : State) : Host.Outcome State Fault Refusal :=
  .next { s with recLeft := n, pc := 1 }

/-- REC (R183): SEL, CMD(OPC), one DAT per argument, DESEL, then `pc <- pc + 2 + k`. SEL is emitted now, the rest
one element a step. A term with more than 127 arguments, which no bytes decode to, plays them all (DESIGN CHOICE, log 24). -/
def execRecPlain (opc : Byte) (args : List Byte) (s : State) : Host.Outcome State Fault Refusal :=
  .next (s.begin .sel
    (.emit (.cmd opc) :: (dataMicros args ++ [.emit .desel, .advance (2 + args.length)])))

/-- REC_D (R184): as REC, then the delay byte's WAIT after DESEL, then `pc <- pc + 3 + k`. A term with more
than 127 arguments, which no bytes decode to, plays them all (DESIGN CHOICE, log 24). -/
def execRecD (opc : Byte) (args : List Byte) (dly : Byte) (s : State) : Host.Outcome State Fault Refusal :=
  .next (s.begin .sel
    (.emit (.cmd opc) :: (dataMicros args ++ [.emit .desel, .delay dly, .advance (3 + args.length)])))

/-- DLY_500 (R185): the delay byte 255 stands for 500 ms, the operand of REC_D's WAIT. -/
def execDly500 (s : State) : Host.Outcome State Fault Refusal :=
  .next (s.emit (.wait (delayMs Config.delaySentinel)))

/-- DLY_MS (R185): any other delay byte is milliseconds directly. -/
def execDlyMs (d : Byte) (s : State) : Host.Outcome State Fault Refusal := .next (s.emit (.wait (delayMs d)))

end Sys2Proof.Machine
end

