-- ==== Sys2Proof/Machine/Wire.lean ====
section
/-! DEFINITION. The WCMD family: the five command frames the engine generates itself (30_encoding.md R123). -/

namespace Sys2Proof.Machine

/-- CASET (R293): `CMD(P_CMD_CASET)` followed by `WADDR(x1, x2)`. -/
def execCaset (s : State) : Host.Outcome State Fault Refusal :=
  .next (s.begin (.cmd s.par.cmdCaset) (dataMicros (waddr s.x1 s.x2)))

/-- RASET (R294): `CMD(P_CMD_RASET)` followed by `WADDR(y1, y2)`. -/
def execRaset (s : State) : Host.Outcome State Fault Refusal :=
  .next (s.begin (.cmd s.par.cmdRaset) (dataMicros (waddr s.y1 s.y2)))

/-- RAMWR (R295, R296): `CMD(P_CMD_RAMWR)` followed by the pixel stream. FB cannot change while UPDATE runs (R98),
so the whole stream is read here. -/
def execRamwr (s : State) : Host.Outcome State Fault Refusal :=
  if s.activeLen ≤ s.par.bufBytes then .next (s.begin (.cmd s.par.cmdRamwr) (dataMicros s.pixelStream))
  else .fault .fbOutOfRange

/-- MADCTL (R230): `SEL, CMD(P_CMD_MADCTL), DAT(ModeByte()), DESEL`. -/
def execMadctl (s : State) : Host.Outcome State Fault Refusal :=
  .next (s.begin .sel [.emit (.cmd s.par.cmdMadctl), .emit (.dat s.modeByte), .emit .desel])

/-- INVON (R231): `SEL, CMD(P_CMD_INVON), DESEL`, with no data byte. -/
def execInvon (s : State) : Host.Outcome State Fault Refusal :=
  .next (s.begin .sel [.emit (.cmd s.par.cmdInvon), .emit .desel])

end Sys2Proof.Machine
end

