-- ==== Sys2Proof/Machine/Dispatch.lean ====
section
/-! DEFINITION. The dispatch: one arm per instruction of the opcode table, each one call of its meaning. -/

namespace Sys2Proof.Machine

/-- Execute one instruction. -/
def exec (i : Instr) (s : State) : Host.Outcome State Fault Refusal :=
  match i with
  -- HOSTCMD
  | .setup g => Sys2Proof.Machine.execSetup g s
  | .update g => Sys2Proof.Machine.execUpdate g s
  | .setPixel g => Sys2Proof.Machine.execSetPixel g s
  | .reservedOp op g => Sys2Proof.Machine.execReservedOp op g s
  -- HOSTREG
  | .regCmd a => Sys2Proof.Machine.execRegCmd a s
  | .regStatus a => Sys2Proof.Machine.execRegStatus a s
  | .regCfgWidth a => Sys2Proof.Machine.execRegCfgWidth a s
  | .regCfgHeight a => Sys2Proof.Machine.execRegCfgHeight a s
  | .regCfgColstart a => Sys2Proof.Machine.execRegCfgColstart a s
  | .regCfgRowstart a => Sys2Proof.Machine.execRegCfgRowstart a s
  | .regCfgMode a => Sys2Proof.Machine.execRegCfgMode a s
  | .regGeomWidth a => Sys2Proof.Machine.execRegGeomWidth a s
  | .regGeomHeight a => Sys2Proof.Machine.execRegGeomHeight a s
  | .regGeomColstart a => Sys2Proof.Machine.execRegGeomColstart a s
  | .regGeomRowstart a => Sys2Proof.Machine.execRegGeomRowstart a s
  | .regPixX a => Sys2Proof.Machine.execRegPixX a s
  | .regPixY a => Sys2Proof.Machine.execRegPixY a s
  | .regPixColor a => Sys2Proof.Machine.execRegPixColor a s
  | .regReserved38 a => Sys2Proof.Machine.execRegReserved38 a s
  | .regReserved3C a => Sys2Proof.Machine.execRegReserved3C a s
  -- IMG and script records
  | .count n => Sys2Proof.Machine.execCount n s
  | .recPlain opc args => Sys2Proof.Machine.execRecPlain opc args s
  | .recD opc args dly => Sys2Proof.Machine.execRecD opc args dly s
  | .dly500 => Sys2Proof.Machine.execDly500 s
  | .dlyMs d => Sys2Proof.Machine.execDlyMs d s
  -- WCMD
  | .caset => Sys2Proof.Machine.execCaset s
  | .raset => Sys2Proof.Machine.execRaset s
  | .ramwr => Sys2Proof.Machine.execRamwr s
  | .madctl => Sys2Proof.Machine.execMadctl s
  | .invon => Sys2Proof.Machine.execInvon s

end Sys2Proof.Machine
end

