-- ==== Sys2Proof/Machine/Fetch.lean ====
section
/-! DEFINITION. What one step reads: whose turn it is, the host's next access, the sequencer's next element and
the script bytes it decodes (R8, R47, R96, R180). -/

namespace Sys2Proof.Machine

/-- What one step comes to: an instruction to execute in a state, a state update that is no instruction of the
opcode table, or a stop. -/
inductive Fetched where
  | run (i : Instr) (s : State)
  | done (s : State)
  | fault (f : Fault)
  | refuse (r : Refusal)
deriving DecidableEq, Repr

/-- The refusal of a host access that the decoder refuses (R82). -/
def refusalOf : DecodeError → Refusal
  | .subword => .subwordAccess
  | .misaligned | .truncated | .trailing | .notAFrame => .misalignedAccess

/-- The instruction a frame of the engine is (R123). -/
def Frame.instr : Frame → Instr
  | .caset => .caset
  | .raset => .raset
  | .ramwr => .ramwr
  | .madctl => .madctl
  | .invon => .invon

/-- The host's turn: the next access of its program (R96). `wait_idle` reads STATUS and goes on when bit 3 of the
value read is 0 (R134). With no access left the host does nothing. -/
def State.fetchHost (s : State) : Fetched :=
  match s.hostProgram with
  | [] => .done s
  | .access a :: rest =>
    match decodeHostReg a with
    | .ok i => .run i { s with hostProgram := rest }
    | .error e => .refuse (refusalOf e)
  | .waitIdle :: rest =>
    .run (.regStatus .read) (if s.status.getLsbD 3 then s else { s with hostProgram := rest })

/-- The sequencer's turn: the next element of `s.pending` (R47). With nothing pending it idles (R361).
Playback takes no step but those of its records: COUNT is executed in the step that sets STATE to PLAYING_INIT, and a loop
test that finds no record left goes on in the same step with the resolution of the geometry. So an empty script passes
through PLAYING_INIT for zero steps of playback (R188). The rest of the step grain is the model's choice (DESIGN CHOICE,
log 6). -/
def State.fetchSequencer (s : State) : Fetched :=
  match s.pending with
  | [] => .done s
  | .emit e :: ms => .done ({ s with pending := ms }.emit e)
  | .enter ph :: ms => .done { s with pending := ms, phase := ph }
  | .playCount :: ms =>
    match s.rom with
    | n :: _ => .run (decodeCount n) { s with pending := ms }.startPlayback
    | [] => .fault .romOutOfRange
  | .playNext :: ms =>
    if s.recLeft = 0 then .done { s.resolve with pending := ms }
    else
      match decodeRecord (s.rom.drop s.pc.toNat) with
      | .ok (r, _) => .run r.instr { s with pending := .recordDone :: .playNext :: ms }
      | .error _ => .fault .romOutOfRange
  | .delay d :: ms => .run (decodeDelay d) { s with pending := ms }
  | .advance n :: ms => .done { s with pending := ms, pc := s.pc + BitVec.ofNat 16 n }
  | .recordDone :: ms => .done { s with pending := ms, recLeft := s.recLeft - 1 }
  | .frame f :: ms => .run f.instr { s with pending := ms }
  | .clearFb :: ms =>
    if s.resolveGeometry.bytes s.bpp ≤ s.par.bufBytes then
      .done { s with pending := ms, fb := s.fb.clear (s.resolveGeometry.bytes s.bpp) }
    else .fault .fbOutOfRange

/-- One step's reading: the head of the agenda says who moves (R96). With the agenda empty nobody does. -/
def State.fetch (s : State) : Fetched :=
  match s.agenda with
  | [] => .done s
  | .host :: ts => { s with agenda := ts }.fetchHost
  | .sequencer :: ts => { s with agenda := ts }.fetchSequencer
  | .stall :: ts => .done { s with agenda := ts }
  | .blockReset :: ts => .done { s with agenda := ts }.blockReset

/-- Place an encoded instruction where the very next step reads it (log 12): a host access at the head of the
host's program with the host's turn next; a script header or record in the ROM with its place in `s.pending`; a
delay byte or a frame in `s.pending`, with the sequencer's turn next. -/
def State.place (c : Code) (s : State) : State :=
  match c with
  | .hostCmd v => { s with hostProgram := .access (wr 0x00 v) :: s.hostProgram, agenda := .host :: s.agenda }
  | .hostReg a => { s with hostProgram := .access a :: s.hostProgram, agenda := .host :: s.agenda }
  | .header b => { s with rom := [b], pending := .playCount :: s.pending, agenda := .sequencer :: s.agenda }
  | .record bs =>
    { s with
      rom := 0x01 :: bs, pc := 1, recLeft := 1
      pending := .playNext :: s.pending, agenda := .sequencer :: s.agenda }
  | .delay b => { s with pending := .delay b :: s.pending, agenda := .sequencer :: s.agenda }
  | .wire b =>
    match decodeWire s.par b with
    | .ok .caset => { s with pending := .frame .caset :: s.pending, agenda := .sequencer :: s.agenda }
    | .ok .raset => { s with pending := .frame .raset :: s.pending, agenda := .sequencer :: s.agenda }
    | .ok .ramwr => { s with pending := .frame .ramwr :: s.pending, agenda := .sequencer :: s.agenda }
    | .ok .madctl => { s with pending := .frame .madctl :: s.pending, agenda := .sequencer :: s.agenda }
    | .ok .invon => { s with pending := .frame .invon :: s.pending, agenda := .sequencer :: s.agenda }
    | _ => s

end Sys2Proof.Machine
end

