-- ==== Sys2Proof/Machine/Step.lean ====
section
/-! DEFINITION. One step of the machine (R96): one host access or one sequencer step, or neither. -/

namespace Sys2Proof.Machine

/-- One step: what `fetch` reads, executed. -/
def step (s : State) : Host.Outcome State Fault Refusal :=
  match s.fetch with
  | .run i s' => exec i s'
  | .done s' => .next s'
  | .fault f => .fault f
  | .refuse r => .refused r

/-- `s` with the instruction whose bits the opcode table gives as `w` placed where the next step reads it. -/
def State.withFetchWord (s : State) (nbits w : Nat) : State := s.place (tableCode nbits w)

end Sys2Proof.Machine
end

