-- ==== Sys2Proof/Machine/Timing.lean ====
section
/-! DEFINITION. What the events say of bytes and of time: the bytes sent, the SCLK cycles of a byte (R156) and the lower
bounds on durations (R162, R372, R373). No step reads any of it; it is a view of the trace (log 14, log 15, log 23). -/

namespace Sys2Proof.Machine

/-- One SCLK cycle of a byte (R156): the level of MOSI, and with it the constant levels and the bus mode. -/
structure SclkCycle where
  mosi : Bool
  csN : Bool
  dc : Bool
  cpol : Bool
  cpha : Bool
deriving DecidableEq, Repr

/-- The order in which the bits of a byte are on MOSI: b[7] first when P_SPI_MSB_FIRST, else b[0] first (R156). -/
def mosiBits (msbFirst : Bool) (b : Byte) : List Bool :=
  if msbFirst then [7, 6, 5, 4, 3, 2, 1, 0].map b.getLsbD else [0, 1, 2, 3, 4, 5, 6, 7].map b.getLsbD

/-- The 8 SCLK cycles of a byte sent with DC at a level: CS_N = 0 and DC stable (R156). -/
def byteCycles (p : Config.Params) (dc : Bool) (b : Byte) : List SclkCycle :=
  (mosiBits p.spiMsbFirst b).map (fun m => ⟨m, false, dc, p.spiCpol, p.spiCpha⟩)

/-- The SCLK cycles of a wire event: SCLK toggles only during a CMD or DAT byte (R50). -/
def WireEvent.cycles (p : Config.Params) : WireEvent → List SclkCycle
  | .cmd b => byteCycles p p.dcCmdLevel b
  | .dat b => byteCycles p (!p.dcCmdLevel) b
  | .sel | .desel | .rst _ | .wait _ => []

/-- The byte of a CMD event (R153). -/
def WireEvent.commandByte : WireEvent → Option Byte
  | .cmd b => some b
  | .sel | .desel | .dat _ | .rst _ | .wait _ => none

/-- The byte of a DAT event (R154). -/
def WireEvent.dataByte : WireEvent → Option Byte
  | .dat b => some b
  | .sel | .desel | .cmd _ | .rst _ | .wait _ => none

/-- The milliseconds an event takes at the least (R162). -/
def WireEvent.minMs : WireEvent → Nat
  | .wait ms => ms
  | .sel | .desel | .cmd _ | .dat _ | .rst _ => 0

/-- The milliseconds a sequence of events takes at the least, without the time of its bytes (R193, R372). -/
def minMs (es : List WireEvent) : Nat := (es.map WireEvent.minMs).sum

/-- The SCLK cycles a sequence of events takes: 8 for each byte (R156, R373). -/
def sclkCycles (p : Config.Params) (es : List WireEvent) : Nat := (es.map (fun e => (e.cycles p).length)).sum

/-- The seconds its bytes take at the least, at P_SCLK_HZ (R373). R10 allows P_SCLK_HZ = 0, for which the spec states no
value: the quotient is 0 there, the bound that claims nothing (DESIGN CHOICE, log 23). -/
def minByteSeconds (p : Config.Params) (es : List WireEvent) : Rat := (sclkCycles p es : Rat) / p.sclkHz

end Sys2Proof.Machine
end

