-- ==== Sys2Proof/Safety.lean ====
section
/-! DEFINITION. The terms claims are made in: the event sequences the spec derives for each operation, the framing
of a trace, the plan discipline of `s.pending`, the invariant, and runs of the sequencer. -/

namespace Sys2Proof.Machine

/-! ## Event sequences -/

/-- The events of one decoded record (R182). -/
def recordEvents (r : Record) : List WireEvent :=
  [.sel, .cmd r.opcode] ++ r.args.map .dat ++ [.desel] ++ r.delay.toList.map (fun d => .wait (delayMs d))

/-- The events of Play() on an image: determined by `decode(P_SCRIPT)` alone (R182). -/
def playEvents (rom : List Byte) : List WireEvent :=
  match decodeImage rom with
  | .ok rs => rs.flatMap recordEvents
  | .error _ => []

/-- The events a successful SETUP appends to the trace (R235). -/
def State.setupEvents (s : State) : List WireEvent :=
  (if s.rstPresent then [.rst true, .wait 1, .rst false, .wait 10, .rst true] else []) ++ [.wait 100] ++
  playEvents s.rom ++ [.sel, .cmd s.par.cmdMadctl, .dat s.modeByte, .desel] ++
  (if s.invert then [.sel, .cmd s.par.cmdInvon, .desel] else [])

/-- The events an UPDATE appends to the trace (R290, R301). -/
def State.updateEvents (s : State) : List WireEvent :=
  [.sel, .cmd s.par.cmdCaset] ++ (waddr s.x1 s.x2).map .dat ++ [.cmd s.par.cmdRaset] ++
  (waddr s.y1 s.y2).map .dat ++ [.cmd s.par.cmdRamwr] ++ s.pixelStream.map .dat ++ [.desel]

/-- `a_0 = 1`, `a_(i+1) = a_i + len(a_i)`: where record `i` of an image starts (R121). -/
def recordStart (rom : List Byte) : Nat → Nat
  | 0 => 1
  | i + 1 => recordStart rom i + recordLen (romByte rom (recordStart rom i + 1))

/-! ## Framing (R158, R159) -/

/-- Whether an event may follow when CS_N is at a level (R151 to R154, R159): CMD, DAT and DESEL only inside a
transaction, SEL, RST and WAIT only outside one. -/
def WireEvent.allowed (e : WireEvent) (csN : Bool) : Bool :=
  match e with
  | .sel | .rst _ | .wait _ => csN
  | .desel | .cmd _ | .dat _ => !csN

/-- The level of CS_N after a sequence of events that begins at a level and keeps the framing; `none` where an event
breaks it. -/
def framedFrom (csN : Bool) : List WireEvent → Option Bool
  | [] => some csN
  | e :: es => if e.allowed csN then framedFrom (e.csAfter csN) es else none

/-! ## The discipline of `s.pending` -/

/-- Where the sequencer will stand when it reaches a place in `s.pending`. -/
structure Plan where
  csN : Bool
  rst : Bool
  /-- Whether the active part of FB has been cleared. -/
  cleared : Bool
  phase : Phase
  pc : Half
  left : Byte
deriving DecidableEq, Repr

/-- The lifecycle transitions that a running operation makes by `enter` (R220). -/
def Plan.mayEnter (v : Plan) (ph : Phase) : Bool :=
  match v.phase, ph with
  | .configMode, .ready => v.cleared
  | .transmitting, .ready => true
  | _, _ => false

/-- What one element of `s.pending` does to the plan; `none` where it may not stand there. -/
def Plan.next (rom : List Byte) (v : Plan) (m : Micro) : Option Plan :=
  match m with
  | .emit .sel =>
    if v.csN ∧ (v.phase = .playingInit ∨ v.phase = .configMode ∨ v.phase = .transmitting) then
      some { v with csN := false } else none
  | .emit .desel => if v.csN = false ∧ v.phase.busy then some { v with csN := true } else none
  | .emit (.cmd _) => if v.csN = false ∧ v.phase.busy then some v else none
  | .emit (.dat _) => if v.csN = false ∧ v.phase.busy then some v else none
  | .emit (.rst l) => if v.csN ∧ v.phase = .resetting then some { v with rst := l } else none
  | .emit (.wait _) => if v.csN ∧ (v.phase = .resetting ∨ v.phase = .playingInit) then some v else none
  | .enter ph => if v.csN ∧ v.rst ∧ v.mayEnter ph then some { v with phase := ph } else none
  | .playCount =>
    if v.csN ∧ v.rst ∧ v.phase = .resetting then
      match rom with
      | n :: _ => some { v with phase := .playingInit, pc := 1, left := n }
      | [] => none
    else none
  | .playNext =>
    if v.csN ∧ v.phase = .playingInit ∧ scanRecords rom v.left.toNat v.pc.toNat = some rom.length then
      some { v with phase := .configMode, pc := BitVec.ofNat 16 rom.length, left := 0 } else none
  | .delay _ => if v.csN ∧ v.phase = .playingInit then some v else none
  | .advance n => if v.csN ∧ v.phase = .playingInit then some { v with pc := v.pc + BitVec.ofNat 16 n } else none
  | .recordDone => if v.csN ∧ v.phase = .playingInit then some { v with left := v.left - 1 } else none
  | .frame .caset | .frame .raset | .frame .ramwr =>
    if v.csN = false ∧ v.phase = .transmitting then some v else none
  | .frame .madctl | .frame .invon => if v.csN ∧ v.phase = .configMode then some v else none
  | .clearFb => if v.csN ∧ v.phase = .configMode then some { v with cleared := true } else none

/-- The plan at the end of a list of elements. -/
def Plan.after (rom : List Byte) (v : Plan) : List Micro → Option Plan
  | [] => some v
  | m :: ms =>
    match v.next rom m with
    | none => none
    | some v' => v'.after rom ms

/-- Where the sequencer stands now. -/
def State.plan (s : State) : Plan where
  csN := s.csN
  rst := s.rst
  cleared := decide (s.resolveGeometry.bytes s.bpp ≤ s.fb.zeroed)
  phase := s.phase
  pc := s.pc
  left := s.recLeft

/-- The lifecycle states in which GEOM_* still hold 0 (R42, R229, R324). -/
def Phase.beforeGeometry : Phase → Bool
  | .uninit | .resetting | .playingInit | .failed => true
  | .configMode | .ready | .transmitting => false

/-- The invariant that every step keeps.
- The parameters are legal (R10, R11).
- FB is in canonical form, lists bytes of the cleared part only, and the cleared part lies within P_BUF_BYTES.
- `s.pending` runs to its end within the discipline, and ends idle with CS_N = 1 and RST = 1 (R159, R220, R362).
- GEOM_* hold 0 until SETUP writes them and the resolved geometry from then on (R42, R229).
- From SETUP's acceptance on, the geometry and the script are valid (R221, R222).
- In READY and TRANSMITTING the active part of FB has been cleared (R232, R233).
- The trace is framed and CS_N is the level it leaves (R159). -/
structure State.Inv (s : State) : Prop where
  legal : s.par.Legal
  fbWf : s.fb.wf = true
  fbListed : ∀ c ∈ s.fb.cells, c.1 < s.fb.zeroed
  fbCapacity : s.fb.zeroed ≤ s.par.bufBytes
  plan : ∃ v, s.plan.after s.rom s.pending = some v ∧ v.phase.busy = false ∧ v.csN = true ∧ v.rst = true
  geometryUnset : s.phase.beforeGeometry = true → s.geom = ⟨0, 0, 0, 0⟩
  geometrySet : s.phase.beforeGeometry = false → s.geom = s.resolveGeometry
  valid : s.phase ≠ .uninit → s.phase ≠ .failed →
    s.geometryValid s.resolveGeometry = true ∧ validate s.rom = true
  cleared : s.phase = .ready ∨ s.phase = .transmitting → s.activeLen ≤ s.fb.zeroed
  framed : framedFrom true s.trace = some s.csN

/-! ## The host's side of the state, and running the sequencer -/

/-- What the host can change while an operation runs: the ERR bits, the staging registers, its own program and what its
reads returned. -/
structure HostSide where
  err : BitVec 5
  pixX : Half
  pixY : Half
  pixColor : Rgb
  hostProgram : List HostOp
  hostReads : List Word
deriving DecidableEq, Repr

/-- A state with its host side replaced. -/
def State.withHostSide (h : HostSide) (s : State) : State :=
  { s with
    err := h.err, pixX := h.pixX, pixY := h.pixY, pixColor := h.pixColor, hostProgram := h.hostProgram
    hostReads := h.hostReads }

/-- A state whose uncleared FB bytes are those of another block reset. -/
def State.withEpoch (e : Nat) (s : State) : State := { s with fb := { s.fb with epoch := e } }

/-- `n` steps in which the sequencer moves and nothing else does. -/
def State.runSequencer (n : Nat) (s : State) : Host.Outcome State Fault Refusal :=
  Host.Core.run Sys2Proof.core n { s with agenda := List.replicate n .sequencer }

/-- The lifecycle transitions of R220 that are not a block reset. -/
def Phase.mayBecome (ph ph' : Phase) : Bool :=
  match ph, ph' with
  | .uninit, .resetting => true
  | .uninit, .failed => true
  | .resetting, .playingInit => true
  | .playingInit, .configMode => true
  | .configMode, .ready => true
  | .ready, .transmitting => true
  | .transmitting, .ready => true
  | _, _ => false

end Sys2Proof.Machine
end

