-- ==== Sys2Proof/Certificates/Slice0/Obligations.lean ====
section
/-! DEFINITION. The statements for the provers. OBLIGATIONS.json lists them with the rules they formalise. -/

open Sys2Proof Sys2Proof.Machine

/-! ## Encodings -/

/-- Every well-formed instruction is read back from its encoding, under any legal parameters. -/
def Obligations.DecodeEncodeRoundTrip : Prop :=
  ∀ p : Config.Params, p.Legal → ∀ i : Instr, i.wellFormed = true → decode p (encode p i) = .ok i

/-- R191: a well-formed image decodes and encodes back to itself, and a list of records within the bounds of R192
encodes to a well-formed image that decodes back to it. -/
def Obligations.ScriptImageRoundTrip : Prop :=
  (∀ rom : List Byte, validate rom = true →
    ∃ rs, decodeImage rom = .ok rs ∧ recordsWellFormed rs = true ∧ encodeImage rs = rom) ∧
  (∀ rs : List Record, recordsWellFormed rs = true →
    validate (encodeImage rs) = true ∧ decodeImage (encodeImage rs) = .ok rs)

/-- R121: Validate() answers OK exactly for the images that R121 calls well-formed, and a SETUP with any other image is
rejected before any wire event. -/
def Obligations.ValidateDecidesWellFormedness : Prop :=
  (∀ rom : List Byte, validate rom = true ↔
    1 ≤ rom.length ∧
    (∀ i < (romByte rom 0).toNat, recordStart rom i + 1 < rom.length) ∧
    (∀ i < (romByte rom 0).toNat,
      recordStart rom i + recordLen (romByte rom (recordStart rom i + 1)) ≤ rom.length) ∧
    recordStart rom (romByte rom 0).toNat = rom.length) ∧
  (∀ (s : State) (g : BitVec 24), s.phase = .uninit → validate s.rom = false →
    ∃ t, exec (.setup g) s = .next t ∧ t.phase = .failed ∧ t.wireLog = s.wireLog ∧ t.pending = s.pending)

/-- Words written out from the spec's encodings decode to what they stand for (R111, R31, R115 to R119). That the wire byte
0x2A is CASET rests on P_CMD_CASET's default of R11, which is general knowledge by the spec's own marking (PRESUMED,
log 2). -/
def Obligations.WrittenWordsDecode : Prop :=
  decode Config.params (.hostCmd 0xABCDEF02) = .ok (.update 0xABCDEF) ∧
  decode Config.params (.hostCmd 0x00000004) = .ok (.reservedOp 4 0) ∧
  decode Config.params (.hostReg ⟨.write, 0x18, 0x20, .bits32⟩) = .ok (.regCfgMode (.write 0x20)) ∧
  decode Config.params (.header 0x03) = .ok (.count 3) ∧
  decode Config.params (.record [0x3A, 0x01, 0x05]) = .ok (.recPlain 0x3A [0x05]) ∧
  decode Config.params (.record [0x11, 0x80, 0xFF]) = .ok (.recD 0x11 [] 0xFF) ∧
  decode Config.params (.delay 0xFF) = .ok .dly500 ∧
  decode Config.params (.wire 0x2A) = .ok .caset

/-! ## Steps -/

/-- The host's turn: the next access of its program is decoded and executed, with that access and the turn consumed;
`wait_idle` reads STATUS and is consumed only when the value read has BUSY = 0. -/
def Obligations.StepRunsHostAccess : Prop :=
  ∀ (s : State) (ts : List Turn) (rest : List HostOp), s.agenda = .host :: ts →
    (∀ a i, s.hostProgram = .access a :: rest → decodeHostReg a = .ok i →
      step s = exec i { s with agenda := ts, hostProgram := rest }) ∧
    (s.hostProgram = .waitIdle :: rest →
      step s = exec (.regStatus .read)
        (if s.phase.busy then { s with agenda := ts } else { s with agenda := ts, hostProgram := rest }))

/-- The sequencer's turn at a place where it reads an instruction: the script header, the record at `pc`, a delay
byte or a frame is decoded and executed, with that place and the turn consumed. Before the header's COUNT, in the same step,
STATE becomes PLAYING_INIT and `pc` 0: how R46 goes with R180, and that one step holds both, is the model's reading (DEDUCED,
log 22; DESIGN CHOICE, log 6). After a record the loop of Play() counts it and tests again. -/
def Obligations.StepRunsSequencerInstruction : Prop :=
  ∀ (s : State) (ts : List Turn) (ms : List Micro), s.agenda = .sequencer :: ts →
    (∀ n bs, s.pending = .playCount :: ms → s.rom = n :: bs →
      step s = exec (.count n) { s with agenda := ts, pending := ms, phase := .playingInit, pc := 0 }) ∧
    (∀ r bs, s.pending = .playNext :: ms → s.recLeft ≠ 0 →
      decodeRecord (s.rom.drop s.pc.toNat) = .ok (r, bs) →
      step s = exec r.instr { s with agenda := ts, pending := .recordDone :: .playNext :: ms }) ∧
    (∀ d, s.pending = .delay d :: ms → step s = exec (decodeDelay d) { s with agenda := ts, pending := ms }) ∧
    (∀ f, s.pending = .frame f :: ms → step s = exec f.instr { s with agenda := ts, pending := ms })

/-- A step that emits a wire event emits that one event: it leaves the line levels of R151 to R157 and R162 and
changes nothing else but the place consumed. -/
def Obligations.StepEmitsOneEvent : Prop :=
  ∀ (s : State) (ts : List Turn) (ms : List Micro) (e : WireEvent),
    s.agenda = .sequencer :: ts → s.pending = .emit e :: ms →
    ∃ t, step s = .next t ∧ t.trace = s.trace ++ [e] ∧
      t.csN = (if e = .sel then false else if e = .desel then true else s.csN) ∧
      (∀ b, e = .cmd b → t.dc = s.par.dcCmdLevel) ∧ (∀ b, e = .dat b → t.dc = !s.par.dcCmdLevel) ∧
      ((∀ b, e ≠ .cmd b ∧ e ≠ .dat b) → t.dc = s.dc) ∧
      (∀ l, e = .rst l → t.rst = l) ∧ ((∀ l, e ≠ .rst l) → t.rst = s.rst) ∧
      t = { s with
        agenda := ts, pending := ms, csN := t.csN, dc := t.dc, rst := t.rst, wireLog := t.wireLog }

/-- A host access of 8 or 16 bits, or at an offset that is not a multiple of 4, is refused, as R82 has it; no other access
is. The names of the two refusals, and that the width is named where an access is both, are the model's (DEDUCED, log 8). -/
def Obligations.MeaninglessAccessIsRefused : Prop :=
  ∀ (s : State) (ts : List Turn) (rest : List HostOp) (a : HostAccess),
    s.agenda = .host :: ts → s.hostProgram = .access a :: rest →
    (a.width ≠ .bits32 → step s = .refused .subwordAccess) ∧
    (a.width = .bits32 → a.offset.toNat % 4 ≠ 0 → step s = .refused .misalignedAccess) ∧
    (a.width = .bits32 → a.offset.toNat % 4 = 0 → ∀ r, step s ≠ .refused r)

/-- Where nobody moves nothing changes: a stall (R160), a sequencer with nothing pending (R361); and, by the model's choice
(DESIGN CHOICE), an empty agenda (log 3) and a host whose program is over (log 21). -/
def Obligations.IdleStepsChangeNothing : Prop :=
  ∀ (s : State) (ts : List Turn),
    (s.agenda = [] → step s = .next s) ∧
    (s.agenda = .stall :: ts → step s = .next { s with agenda := ts }) ∧
    (s.agenda = .sequencer :: ts → s.pending = [] → step s = .next { s with agenda := ts }) ∧
    (s.agenda = .host :: ts → s.hostProgram = [] → step s = .next { s with agenda := ts })

/-! ## Host register accesses -/

/-- R237: a read of a CFG_* or GEOM_* register returns its zero-extended value, in every state, and changes nothing
but the host's read log. -/
def Obligations.ConfigAndGeometryReads : Prop :=
  ∀ s : State,
    exec (.regCfgWidth .read) s = .next { s with hostReads := s.cfgWidth.setWidth 32 :: s.hostReads } ∧
    exec (.regCfgHeight .read) s = .next { s with hostReads := s.cfgHeight.setWidth 32 :: s.hostReads } ∧
    exec (.regCfgColstart .read) s = .next { s with hostReads := s.cfgColstart.setWidth 32 :: s.hostReads } ∧
    exec (.regCfgRowstart .read) s = .next { s with hostReads := s.cfgRowstart.setWidth 32 :: s.hostReads } ∧
    exec (.regCfgMode .read) s = .next { s with hostReads := s.cfgMode.setWidth 32 :: s.hostReads } ∧
    exec (.regGeomWidth .read) s = .next { s with hostReads := s.geomWidth.setWidth 32 :: s.hostReads } ∧
    exec (.regGeomHeight .read) s = .next { s with hostReads := s.geomHeight.setWidth 32 :: s.hostReads } ∧
    exec (.regGeomColstart .read) s = .next { s with hostReads := s.geomColstart.setWidth 32 :: s.hostReads } ∧
    exec (.regGeomRowstart .read) s = .next { s with hostReads := s.geomRowstart.setWidth 32 :: s.hostReads }

/-- R34, R238: a read of STATUS returns the lifecycle code of R34, 8 while STATE is one of the four BUSY states of R35, and
16 times the ERR bits, and clears nothing. -/
def Obligations.StatusRead : Prop :=
  ∀ s : State, ∃ v : Word,
    exec (.regStatus .read) s = .next { s with hostReads := v :: s.hostReads } ∧
    v.toNat =
      (match s.phase with
        | .uninit => 0
        | .resetting => 1
        | .playingInit => 2
        | .configMode => 3
        | .ready => 4
        | .transmitting => 5
        | .failed => 6) +
      (if s.phase ∈ [.resetting, .playingInit, .configMode, .transmitting] then 8 else 0) + 16 * s.err.toNat

/-- R239: a read of CMD, of 0x38 or of 0x3C returns 0; a write to STATUS, to GEOM_*, to 0x38 or to 0x3C does nothing. -/
def Obligations.OtherHostAccesses : Prop :=
  ∀ (s : State) (v : Word),
    exec (.regCmd .read) s = .next { s with hostReads := 0 :: s.hostReads } ∧
    exec (.regReserved38 .read) s = .next { s with hostReads := 0 :: s.hostReads } ∧
    exec (.regReserved3C .read) s = .next { s with hostReads := 0 :: s.hostReads } ∧
    exec (.regStatus (.write v)) s = .next s ∧
    exec (.regGeomWidth (.write v)) s = .next s ∧ exec (.regGeomHeight (.write v)) s = .next s ∧
    exec (.regGeomColstart (.write v)) s = .next s ∧ exec (.regGeomRowstart (.write v)) s = .next s ∧
    exec (.regReserved38 (.write v)) s = .next s ∧ exec (.regReserved3C (.write v)) s = .next s

/-- R266: PIX_X, PIX_Y and PIX_COLOR are read and written in every state; the bits above their width are discarded. -/
def Obligations.StagingRegisterAccesses : Prop :=
  ∀ (s : State) (v : Word),
    exec (.regPixX .read) s = .next { s with hostReads := s.pixX.setWidth 32 :: s.hostReads } ∧
    exec (.regPixY .read) s = .next { s with hostReads := s.pixY.setWidth 32 :: s.hostReads } ∧
    exec (.regPixColor .read) s = .next { s with hostReads := s.pixColor.setWidth 32 :: s.hostReads } ∧
    exec (.regPixX (.write v)) s = .next { s with pixX := (v &&& 0xFFFF).setWidth 16 } ∧
    exec (.regPixY (.write v)) s = .next { s with pixY := (v &&& 0xFFFF).setWidth 16 } ∧
    exec (.regPixColor (.write v)) s = .next { s with pixColor := (v &&& 0xFFFFFF).setWidth 24 }

/-- R236: in UNINIT a CFG_* write stores the masked value and changes nothing else; in any other state it sets ERR_STATE
and changes nothing else. -/
def Obligations.ConfigWrites : Prop :=
  ∀ (s : State) (v : Word),
    (s.phase = .uninit →
      exec (.regCfgWidth (.write v)) s = .next { s with cfgWidth := (v &&& 0xFFFF).setWidth 16 } ∧
      exec (.regCfgHeight (.write v)) s = .next { s with cfgHeight := (v &&& 0xFFFF).setWidth 16 } ∧
      exec (.regCfgColstart (.write v)) s = .next { s with cfgColstart := (v &&& 0xFFFF).setWidth 16 } ∧
      exec (.regCfgRowstart (.write v)) s = .next { s with cfgRowstart := (v &&& 0xFFFF).setWidth 16 } ∧
      exec (.regCfgMode (.write v)) s = .next { s with cfgMode := (v &&& 0x3F).setWidth 6 }) ∧
    (s.phase ≠ .uninit →
      ∀ i ∈ [Instr.regCfgWidth (.write v), .regCfgHeight (.write v), .regCfgColstart (.write v),
          .regCfgRowstart (.write v), .regCfgMode (.write v)],
        exec i s = .next { s with err := s.err ||| 0b00100 })

/-! ## Commands -/

/-- R323: a CMD write is rejected by the first check that fails, with nothing but that ERR bit changed, and otherwise
runs the operation its OP names. -/
def Obligations.CommandWriteAcceptance : Prop :=
  ∀ (s : State) (v : Word),
    (s.phase.busy = true → exec (.regCmd (.write v)) s = .next { s with err := s.err ||| 0b01000 }) ∧
    (s.phase.busy = false → opField v ∉ [0x01, 0x02, 0x03] →
      exec (.regCmd (.write v)) s = .next { s with err := s.err ||| 0b10000 }) ∧
    (s.phase.busy = false → opField v = 0x01 → s.phase ≠ .uninit →
      exec (.regCmd (.write v)) s = .next { s with err := s.err ||| 0b00100 }) ∧
    (s.phase.busy = false → opField v ∈ [0x02, 0x03] → s.phase ≠ .ready →
      exec (.regCmd (.write v)) s = .next { s with err := s.err ||| 0b00100 }) ∧
    (opField v = 0x01 → s.phase = .uninit → exec (.regCmd (.write v)) s = .next s.startSetup) ∧
    (opField v = 0x02 → s.phase = .ready → exec (.regCmd (.write v)) s = .next s.startUpdate) ∧
    (opField v = 0x03 → s.phase = .ready → exec (.regCmd (.write v)) s = s.drawPixel)

/-- R32, R111: a write to CMD is the operation that its value decodes to, whatever its bits [31:8]. -/
def Obligations.CommandWriteRunsDecodedOperation : Prop :=
  ∀ (s : State) (v : Word), exec (.regCmd (.write v)) s = exec (decodeHostCmd v) s

/-- R113: a reserved OP sets ERR_OP, or ERR_BUSY while BUSY = 1, and has no other effect. -/
def Obligations.ReservedOperationRejected : Prop :=
  ∀ (s : State) (op : Byte) (g : BitVec 24), (op = 0 ∨ 4 ≤ op.toNat) →
    decodeHostCmd (hostCmdWord g op) = .reservedOp op g ∧
    (s.phase.busy = false → exec (.reservedOp op g) s = .next { s with err := s.err ||| 0b10000 }) ∧
    (s.phase.busy = true → exec (.reservedOp op g) s = .next { s with err := s.err ||| 0b01000 })

/-- SETUP in UNINIT with a valid geometry and a well-formed script is accepted: STATE becomes RESETTING and nothing else
changes but what the sequencer has still to do. SetupRejectedByValidation says what the resolved geometry is and when it is
valid. -/
def Obligations.SetupAccepted : Prop :=
  ∀ (s : State) (g : BitVec 24), s.phase = .uninit →
    s.geometryValid s.resolveGeometry = true → validate s.rom = true →
    exec (.setup g) s = .next { s with phase := .resetting, pending := s.setupSteps }

/-- R226: each requested value of 0 resolves to its default, 80, 160, 24 and 0, on its own, and any other to itself. R227,
R228: a geometry is valid exactly when it has at least one row and one column, ends within P_PHYS_COLS and P_PHYS_ROWS and
fits P_BUF_BYTES, sums and product exact; the first condition always holds of a resolved one. R222: a SETUP whose validation
fails sets STATE to FAILED and one ERR bit, CONFIG before SCRIPT, and changes nothing else. (R9 calls its literals
unaudited: log 17.) -/
def Obligations.SetupRejectedByValidation : Prop :=
  (∀ s : State,
    s.resolveGeometry.w = (if s.cfgWidth = 0 then 80 else s.cfgWidth) ∧
    s.resolveGeometry.h = (if s.cfgHeight = 0 then 160 else s.cfgHeight) ∧
    s.resolveGeometry.cs = (if s.cfgColstart = 0 then 24 else s.cfgColstart) ∧
    s.resolveGeometry.rs = s.cfgRowstart ∧
    1 ≤ s.resolveGeometry.w.toNat ∧ 1 ≤ s.resolveGeometry.h.toNat) ∧
  (∀ (s : State) (g : Geometry), s.geometryValid g = true ↔
    1 ≤ g.w.toNat ∧ 1 ≤ g.h.toNat ∧
    g.cs.toNat + g.w.toNat ≤ s.par.physCols ∧ g.rs.toNat + g.h.toNat ≤ s.par.physRows ∧
    g.w.toNat * g.h.toNat * (if s.cfgMode.getLsbD 0 then 1 else 2) ≤ s.par.bufBytes) ∧
  (∀ (s : State) (g : BitVec 24), s.phase = .uninit →
    (s.geometryValid s.resolveGeometry = false →
      exec (.setup g) s = .next { s with phase := .failed, err := s.err ||| 0b00001 }) ∧
    (s.geometryValid s.resolveGeometry = true → validate s.rom = false →
      exec (.setup g) s = .next { s with phase := .failed, err := s.err ||| 0b00010 }))

/-- UPDATE in READY is accepted: STATE becomes TRANSMITTING and nothing else changes but what the sequencer has still to
do. -/
def Obligations.UpdateAccepted : Prop :=
  ∀ (s : State) (g : BitVec 24), s.phase = .ready →
    exec (.update g) s = .next { s with phase := .transmitting, pending := updateSteps }

/-- R269: in READY, SET_PIXEL of an in-range pixel that lies within P_BUF_BYTES completes, changes FB alone, and there
the pixel's bytes alone: they read back as q332 or q565 of the colour. -/
def Obligations.SetPixelWritesThePixel : Prop :=
  ∀ (s : State) (g : BitVec 24), s.phase = .ready → s.fb.wf = true →
    s.inRange s.pixelX s.pixelY = true →
    s.pixelOffset s.pixelX s.pixelY + s.bpp ≤ s.par.bufBytes →
    ∃ fb, exec (.setPixel g) s = .next { s with fb := fb } ∧
      (s.fmt8 = true → fb.read (s.pixelOffset s.pixelX s.pixelY) = q332 s.pixColor) ∧
      (s.fmt8 = false → fb.read16 (s.pixelOffset s.pixelX s.pixelY) = q565 s.pixColor) ∧
      (∀ a, ¬(s.pixelOffset s.pixelX s.pixelY ≤ a ∧ a < s.pixelOffset s.pixelX s.pixelY + s.bpp) →
        fb.read a = s.fb.read a)

/-- R270: in READY, SET_PIXEL of an out-of-range pixel changes nothing. -/
def Obligations.SetPixelClips : Prop :=
  ∀ (s : State) (g : BitVec 24), s.phase = .ready → s.inRange s.pixelX s.pixelY = false →
    exec (.setPixel g) s = .next s

/-- A SET_PIXEL, a RAMWR or a buffer clear that would pass P_BUF_BYTES stops the machine by name, before any part of it takes
effect (the model's choice, DESIGN CHOICE, log 9). InvariantStatesNeverFault says that the invariant rules such states
out. -/
def Obligations.BufferOverrunFaults : Prop :=
  (∀ (s : State) (g : BitVec 24), s.phase = .ready → s.inRange s.pixelX s.pixelY = true →
    s.par.bufBytes < s.pixelOffset s.pixelX s.pixelY + s.bpp → exec (.setPixel g) s = .fault .fbOutOfRange) ∧
  (∀ s : State, s.par.bufBytes < s.activeLen → exec .ramwr s = .fault .fbOutOfRange) ∧
  (∀ (s : State) (ts : List Turn) (ms : List Micro), s.agenda = .sequencer :: ts → s.pending = .clearFb :: ms →
    s.par.bufBytes < s.resolveGeometry.bytes s.bpp → step s = .fault .fbOutOfRange)

/-- R260, R263, R264: pixel (x, y) is in range when 0 ≤ x < W and 0 ≤ y < H, and then its offset is (x + y × W) × bpp, with
bpp = 1 for Indexed8 and 2 for RGB565: row y occupies bytes y × W × bpp .. (y + 1) × W × bpp - 1, in increasing x. The offset
is a multiple of bpp below W × H × bpp, different pixels have different offsets, and every such multiple is the offset of an
in-range pixel. -/
def Obligations.PixelOffsetsAreExact : Prop :=
  ∀ s : State,
    s.bpp = (if s.cfgMode.getLsbD 0 then 1 else 2) ∧
    s.activeLen = s.geomWidth.toNat * s.geomHeight.toNat * s.bpp ∧
    (∀ x y, s.inRange x y = true ↔
      0 ≤ x ∧ x < s.geomWidth.toNat ∧ 0 ≤ y ∧ y < s.geomHeight.toNat) ∧
    (∀ x y, s.inRange x y = true →
      (s.pixelOffset x y : Int) = (x + y * s.geomWidth.toNat) * s.bpp ∧
      y * s.geomWidth.toNat * s.bpp ≤ s.pixelOffset x y ∧
      s.pixelOffset x y + s.bpp - 1 ≤ (y + 1) * s.geomWidth.toNat * s.bpp - 1 ∧
      s.bpp ∣ s.pixelOffset x y ∧ s.pixelOffset x y + s.bpp - 1 < s.activeLen) ∧
    (∀ x y x' y', s.inRange x y = true → s.inRange x' y' = true →
      s.pixelOffset x y = s.pixelOffset x' y' → x = x' ∧ y = y') ∧
    (∀ o, s.bpp ∣ o → o < s.activeLen → ∃ x y, s.inRange x y = true ∧ s.pixelOffset x y = o)

/-! ## The script -/

/-- COUNT loads `s.recLeft` and sets `pc` to 1 (R180, R190). The step that performs it is the one that sets STATE to
PLAYING_INIT and, as playback's start, `pc` to 0 (R46); COUNT is executed from there. That R46 and R190 hold one after the
other, in one step, is the model's reading (DEDUCED, log 22; DESIGN CHOICE, log 6). -/
def Obligations.CountLoadsTheHeader : Prop :=
  (∀ (s : State) (n : Byte), exec (.count n) s = .next { s with recLeft := n, pc := 1 }) ∧
  (∀ (s : State) (ts : List Turn) (ms : List Micro) (n : Byte) (bs : List Byte),
    s.agenda = .sequencer :: ts → s.pending = .playCount :: ms → s.rom = n :: bs →
    step s = exec (.count n) { s with agenda := ts, pending := ms, phase := .playingInit, pc := 0 } ∧
    step s = .next { s with agenda := ts, pending := ms, phase := .playingInit, pc := 1, recLeft := n })

/-- R188: the empty script is well-formed and its playback emits no event. SETUP goes from the startup wait straight to the
resolution of the geometry: one step sets STATE to PLAYING_INIT, and the very next writes GEOM_* and sets STATE to
CONFIG_MODE, with no step of playback between. That COUNT is performed in the first of the two is the model's choice
(DESIGN CHOICE, log 6). -/
def Obligations.EmptyScriptTakesNoStep : Prop :=
  validate [0x00] = true ∧ playEvents [0x00] = [] ∧
  ∀ s : State, s.setupSteps = s.resetPulse ++ .emit (.wait 100) :: .playCount :: .playNext :: s.configSteps ∧
    (s.rom = [0x00] → s.pending = .playCount :: .playNext :: s.configSteps →
      s.runSequencer 1 = .next { s with
        pending := .playNext :: s.configSteps, phase := .playingInit, pc := 1, recLeft := 0, agenda := [] } ∧
      s.runSequencer 2 = .next { s with
        pending := s.configSteps
        phase := .configMode
        geomWidth := s.resolveGeometry.w
        geomHeight := s.resolveGeometry.h
        geomColstart := s.resolveGeometry.cs
        geomRowstart := s.resolveGeometry.rs
        pc := 1
        recLeft := 0
        agenda := [] })

/-- R183: REC completes, and the sequencer then needs k + 3 more steps, after which the trace has gained SEL, CMD, one DAT
per argument and DESEL, and `pc` has advanced by 2 + k. The count k + 3, in which the advance of `pc` is a step of its own,
is the model's choice (DESIGN CHOICE, log 6); so is what it says of more than 127 arguments (log 24). -/
def Obligations.RecordPlays : Prop :=
  ∀ (s : State) (opc : Byte) (args : List Byte),
    ∃ t, exec (.recPlain opc args) s = .next t ∧
      t.runSequencer (args.length + 3) = .next { s with
        csN := true
        dc := if args = [] then s.par.dcCmdLevel else !s.par.dcCmdLevel
        wireLog := ([WireEvent.sel, .cmd opc] ++ args.map WireEvent.dat ++ [WireEvent.desel]).reverse ++ s.wireLog
        pc := s.pc + BitVec.ofNat 16 (2 + args.length)
        agenda := [] }

/-- R184: REC_D completes, and the sequencer then needs k + 4 more steps, after which the trace has gained SEL, CMD, one
DAT per argument, DESEL and the delay byte's WAIT, and `pc` has advanced by 3 + k. The count k + 4, in which the advance of
`pc` is a step of its own, is the model's choice (DESIGN CHOICE, log 6); so is what it says of more than 127 arguments
(log 24). -/
def Obligations.DelayedRecordPlays : Prop :=
  ∀ (s : State) (opc : Byte) (args : List Byte) (d : Byte),
    ∃ t, exec (.recD opc args d) s = .next t ∧
      t.runSequencer (args.length + 4) = .next { s with
        csN := true
        dc := if args = [] then s.par.dcCmdLevel else !s.par.dcCmdLevel
        wireLog := ([WireEvent.sel, .cmd opc] ++ args.map WireEvent.dat ++ [WireEvent.desel, .wait (delayMs d)]).reverse ++ s.wireLog
        pc := s.pc + BitVec.ofNat 16 (3 + args.length)
        agenda := [] }

/-- R185: the delay byte 255 waits 500 ms, any other waits itself in milliseconds; the WAIT is the whole effect. -/
def Obligations.DelayForms : Prop :=
  (∀ s : State, exec (decodeDelay 255) s = exec .dly500 s ∧
    exec .dly500 s = .next { s with wireLog := .wait 500 :: s.wireLog }) ∧
  (∀ (s : State) (d : Byte), d ≠ 255 → exec (decodeDelay d) s = exec (.dlyMs d) s ∧
    exec (.dlyMs d) s = .next { s with wireLog := .wait d.toNat :: s.wireLog })

/-- R182, R186: on a well-formed image, Play() runs to its end in PLAYING_INIT: its events are those of `decode(P_SCRIPT)`, and
it leaves `pc = P_SCRIPT_LEN`, `s.recLeft = 0`, no record for its loop test to find and the rest of what was pending. The
very next step resolves the geometry and adds no event (R188, R229): that a loop test which finds no record is no step of its
own after a record too is the model's choice (DESIGN CHOICE, log 6). -/
def Obligations.PlaybackRunsTheWholeImage : Prop :=
  ∀ (s : State) (ms : List Micro), validate s.rom = true → s.csN = true →
    s.pending = .playCount :: .playNext :: ms →
    ∃ n dc t, s.runSequencer n = .next t ∧
      t = { s with
        pending := .playNext :: ms
        phase := .playingInit
        dc := dc
        wireLog := (playEvents s.rom).reverse ++ s.wireLog
        pc := BitVec.ofNat 16 s.rom.length
        recLeft := 0
        agenda := [] } ∧
      s.runSequencer (n + 1) = .next { t.resolve with pending := ms }

/-! ## Engine frames -/

/-- R293, R294: CASET and RASET complete; after four more steps the trace has gained the command and the four window
bytes. -/
def Obligations.AddressFramesSendTheWindow : Prop :=
  ∀ s : State,
    (∃ t, exec .caset s = .next t ∧ t.runSequencer 4 = .next { s with
      dc := !s.par.dcCmdLevel
      wireLog := [.dat (lo8 s.x2), .dat (hi8 s.x2), .dat (lo8 s.x1), .dat (hi8 s.x1), .cmd s.par.cmdCaset] ++ s.wireLog
      agenda := [] }) ∧
    (∃ t, exec .raset s = .next t ∧ t.runSequencer 4 = .next { s with
      dc := !s.par.dcCmdLevel
      wireLog := [.dat (lo8 s.y2), .dat (hi8 s.y2), .dat (lo8 s.y1), .dat (hi8 s.y1), .cmd s.par.cmdRaset] ++ s.wireLog
      agenda := [] })

/-- R295, R296: RAMWR within P_BUF_BYTES completes; after 2 × W × H more steps the trace has gained the command and the
pixel stream, two bytes for each pixel in buffer order. -/
def Obligations.MemoryWriteStreamsTheBuffer : Prop :=
  ∀ s : State, s.activeLen ≤ s.par.bufBytes →
    ∃ t dc, exec .ramwr s = .next t ∧
      s.pixelStream.length = 2 * (s.geomWidth.toNat * s.geomHeight.toNat) ∧
      t.runSequencer (2 * (s.geomWidth.toNat * s.geomHeight.toNat)) = .next { s with
        dc := dc
        wireLog := (s.pixelStream.map .dat).reverse ++ .cmd s.par.cmdRamwr :: s.wireLog
        agenda := [] } ∧
      (∀ p, p < s.geomWidth.toNat * s.geomHeight.toNat →
        (s.fmt8 = true → s.pixelStream[2 * p]? = some (hi8 (x332to565 (s.fb.read p))) ∧
          s.pixelStream[2 * p + 1]? = some (lo8 (x332to565 (s.fb.read p)))) ∧
        (s.fmt8 = false → s.pixelStream[2 * p]? = some (s.fb.read (2 * p)) ∧
          s.pixelStream[2 * p + 1]? = some (s.fb.read (2 * p + 1))))

/-- R230, R231: MADCTL and INVON complete; each is a transaction of its own. -/
def Obligations.ModeFramesAreTransactions : Prop :=
  ∀ s : State,
    (∃ t, exec .madctl s = .next t ∧ t.runSequencer 3 = .next { s with
      csN := true
      dc := !s.par.dcCmdLevel
      wireLog := [.desel, .dat s.modeByte, .cmd s.par.cmdMadctl, .sel] ++ s.wireLog
      agenda := [] }) ∧
    (∃ t, exec .invon s = .next t ∧ t.runSequencer 2 = .next { s with
      csN := true
      dc := s.par.dcCmdLevel
      wireLog := [.desel, .cmd s.par.cmdInvon, .sel] ++ s.wireLog
      agenda := [] })

/-- R125: the mode byte holds MIRROR_Y, MIRROR_X and BGR at their three positions and 0 in every other bit. -/
def Obligations.ModeByteHoldsTheThreeFields : Prop :=
  ∀ (s : State) (i : Fin 8),
    s.modeByte.getLsbD i.val =
      ((i = s.par.madctlMyBit && s.cfgMode.getLsbD 4) || (i = s.par.madctlMxBit && s.cfgMode.getLsbD 3) ||
        (i = s.par.madctlBgrBit && s.cfgMode.getLsbD 1))

/-- R292: with W, H ≥ 1 and the far edges within 65535, the window is columnStart .. columnStart + W - 1 by rowStart ..
rowStart + H - 1, inclusive. -/
def Obligations.WindowIsInclusive : Prop :=
  ∀ s : State, 1 ≤ s.geomWidth.toNat → 1 ≤ s.geomHeight.toNat →
    s.geomColstart.toNat + s.geomWidth.toNat ≤ 65535 → s.geomRowstart.toNat + s.geomHeight.toNat ≤ 65535 →
    s.x1 = s.geomColstart ∧ s.x2.toNat = s.geomColstart.toNat + s.geomWidth.toNat - 1 ∧
    s.y1 = s.geomRowstart ∧ s.y2.toNat = s.geomRowstart.toNat + s.geomHeight.toNat - 1 ∧
    s.x1.toNat ≤ s.x2.toNat ∧ s.x2.toNat - s.x1.toNat + 1 = s.geomWidth.toNat ∧
    s.y1.toNat ≤ s.y2.toNat ∧ s.y2.toNat - s.y1.toNat + 1 = s.geomHeight.toNat

/-! ## Colours and delays -/

/-- R302: expanding a 3-3-2 byte and quantising it again gives it back, so quantise, expand, quantise is quantise. -/
def Obligations.QuantiseExpandIsIdempotent : Prop :=
  (∀ p : Byte, q332 (e332 p) = p) ∧ (∀ c : Rgb, q332 (e332 (q332 c)) = q332 c)

/-- R298: the 5-6-5 value of a 3-3-2 byte, field by field. -/
def Obligations.ExpansionTable : Prop :=
  ∀ p : Byte,
    (x332to565 p).toNat =
      [0, 4, 9, 13, 18, 22, 27, 31].getD (p.toNat / 32) 0 * 2048 +
      [0, 9, 18, 27, 36, 45, 54, 63].getD (p.toNat / 4 % 8) 0 * 32 + [0, 10, 21, 31].getD (p.toNat % 4) 0

/-- R271: q332 keeps exactly the top 3, 3 and 2 bits of the channels and q565 exactly the top 5, 6 and 5. -/
def Obligations.QuantisersKeepTheTopBits : Prop :=
  (∀ c d : Rgb, q332 c = q332 d ↔
    c.extractLsb' 21 3 = d.extractLsb' 21 3 ∧ c.extractLsb' 13 3 = d.extractLsb' 13 3 ∧
      c.extractLsb' 6 2 = d.extractLsb' 6 2) ∧
  (∀ c d : Rgb, q565 c = q565 d ↔
    c.extractLsb' 19 5 = d.extractLsb' 19 5 ∧ c.extractLsb' 10 6 = d.extractLsb' 10 6 ∧
      c.extractLsb' 3 5 = d.extractLsb' 3 5) ∧
  q332 0x000000 = 0x00 ∧ q332 0xFFFFFF = 0xFF ∧ q565 0x000000 = 0x0000 ∧ q565 0xFFFFFF = 0xFFFF

/-- R156: the bits of a byte are on the data line from b[7] to b[0], or from b[0] to b[7], in 8 cycles with CS_N = 0. -/
def Obligations.BytesAreSerialised : Prop :=
  ∀ (p : Config.Params) (dc : Bool) (b : Byte) (i : Fin 8),
    (byteCycles p dc b).length = 8 ∧
    ∃ c, (byteCycles p dc b)[i.val]? = some c ∧ c.csN = false ∧ c.dc = dc ∧
      c.mosi = b.getLsbD (if p.spiMsbFirst then 7 - i.val else i.val)

/-! ## Whole-machine rules -/

/-- R54: what a block reset leaves, where R54 gives a value; the FB bytes are the free value of I1, whatever it is. -/
def Obligations.ResetLeavesTheSpecifiedValues : Prop :=
  State.reset.phase = .uninit ∧ State.reset.phase.busy = false ∧ State.reset.err = 0 ∧
  State.reset.cfgWidth = 0 ∧ State.reset.cfgHeight = 0 ∧ State.reset.cfgColstart = 0 ∧ State.reset.cfgRowstart = 0 ∧
  State.reset.cfgMode = 0 ∧ State.reset.geom = ⟨0, 0, 0, 0⟩ ∧
  State.reset.pixX = 0 ∧ State.reset.pixY = 0 ∧ State.reset.pixColor = 0 ∧ State.reset.pending = [] ∧
  State.reset.csN = true ∧ State.reset.dc = false ∧ State.reset.rst = true ∧ State.reset.trace = [] ∧
  State.reset.rom = Config.script ∧ ∃ e, ∀ a, State.reset.fb.read a = Config.fbUnspecified e a

/-- The state after reset satisfies the invariant. -/
def Obligations.ResetSatisfiesTheInvariant : Prop := State.reset.Inv

/-- Every step from a state that satisfies the invariant gives a state that satisfies it. -/
def Obligations.EveryStepKeepsTheInvariant : Prop :=
  ∀ s t : State, s.Inv → step s = .next t → t.Inv

/-- No step from a state that satisfies the invariant faults: no script read passes P_SCRIPT_LEN (R181) and no buffer
access passes P_BUF_BYTES (R263). -/
def Obligations.InvariantStatesNeverFault : Prop :=
  ∀ (s : State) (f : Fault), s.Inv → step s ≠ .fault f

/-- R35, R47: an operation is in progress exactly when the sequencer has something left to do. -/
def Obligations.BusyExactlyWhenPending : Prop :=
  ∀ s : State, s.Inv → (s.phase.busy = true ↔ s.pending ≠ [])

/-- R220: no step but a block reset makes a lifecycle transition that the table does not list. -/
def Obligations.OnlyTheListedTransitions : Prop :=
  ∀ s t : State, s.Inv → step s = .next t →
    t.phase = s.phase ∨ s.phase.mayBecome t.phase = true ∨
      (s.agenda.head? = some .blockReset ∧ t.phase = .uninit)

/-- R36: a step sets at most one ERR bit and clears none, unless it is a block reset, which clears all. -/
def Obligations.ErrorBitsAreSticky : Prop :=
  ∀ s t : State, step s = .next t →
    (s.agenda.head? ≠ some .blockReset → t.err = s.err ∨ ∃ e : Err, t.err = s.err ||| e.mask) ∧
    (s.agenda.head? = some .blockReset → t.err = 0)

/-- R42, R48, R55: outside UNINIT no step but a block reset changes a CFG_* register, and from the step that writes them
on none changes a GEOM_* register. -/
def Obligations.ConfigurationIsLocked : Prop :=
  ∀ s t : State, s.Inv → step s = .next t → s.agenda.head? ≠ some .blockReset →
    (s.phase ≠ .uninit →
      t.cfgWidth = s.cfgWidth ∧ t.cfgHeight = s.cfgHeight ∧ t.cfgColstart = s.cfgColstart ∧
      t.cfgRowstart = s.cfgRowstart ∧ t.cfgMode = s.cfgMode) ∧
    (s.phase.beforeGeometry = false → t.geom = s.geom)

/-- No step changes the script ROM (R101), nor a parameter: that the parameters of R10 and R11 are constants of the machine,
kept in State, is the model's choice (DESIGN CHOICE, log 1). -/
def Obligations.RomAndParametersAreConstant : Prop :=
  ∀ s t : State, step s = .next t → t.rom = s.rom ∧ t.par = s.par

/-- R97, R326: while an operation runs, a host turn changes nothing but the ERR bits, the staging registers and the host's
own side. -/
def Obligations.HostCannotDisturbARunningOperation : Prop :=
  ∀ (s t : State) (ts : List Turn), s.phase.busy = true → s.agenda = .host :: ts → step s = .next t →
    ∃ h : HostSide, t = ({ s with agenda := ts } : State).withHostSide h

/-- R97, R326: what the sequencer does in a step does not depend on the ERR bits, the staging registers or the host's own
side, and leaves them alone. -/
def Obligations.SequencerIgnoresTheHostSide : Prop :=
  ∀ (s t : State) (ts : List Turn) (h : HostSide), s.agenda = .sequencer :: ts → step s = .next t →
    step (s.withHostSide h) = .next (t.withHostSide h) ∧
    t = t.withHostSide ⟨s.err, s.pixX, s.pixY, s.pixColor, s.hostProgram, s.hostReads⟩

/-- R98, R291: while UPDATE runs, no step but a block reset changes FB. -/
def Obligations.BufferIsFixedDuringUpdate : Prop :=
  ∀ s t : State, s.Inv → s.phase = .transmitting → step s = .next t →
    s.agenda.head? ≠ some .blockReset → t.fb = s.fb

/-- R56: which values the uncleared bytes of FB hold changes nothing that a step does. -/
def Obligations.UnspecifiedBufferIsUnobservable : Prop :=
  ∀ (s : State) (e : Nat), s.Inv → s.agenda.head? ≠ some .blockReset →
    (∀ t, step s = .next t → step (s.withEpoch e) = .next (t.withEpoch e)) ∧
    (∀ r, step s = .refused r → step (s.withEpoch e) = .refused r)

/-- R8, R52, R103: a step appends at most one event to the trace, and a host's step appends none; only a block reset starts
a new trace. -/
def Obligations.TraceGrowsByOneEvent : Prop :=
  ∀ s t : State, step s = .next t →
    (s.agenda.head? ≠ some .blockReset → t.trace = s.trace ∨ ∃ e, t.trace = s.trace ++ [e]) ∧
    (s.agenda.head? = some .host → t.trace = s.trace) ∧
    (s.agenda.head? = some .blockReset → t.trace = [])

/-- R85, R96: the host's accesses take effect in program order, each whole and in one step. A step that is not the host's
takes nothing from the host's program. A host's step with an access at the head is that access executed, and takes it alone;
with `wait_idle` at the head it is one read of STATUS, and takes the item when BUSY = 0 (log 21); at the program's end it
takes nothing. -/
def Obligations.HostProgramIsTakenInOrder : Prop :=
  ∀ s t : State, step s = .next t →
    (s.agenda.head? ≠ some .host → t.hostProgram = s.hostProgram) ∧
    ∀ ts, s.agenda = .host :: ts →
      (s.hostProgram = [] ∧ t = { s with agenda := ts }) ∨
      (∃ a i rest, s.hostProgram = .access a :: rest ∧ decodeHostReg a = .ok i ∧
        exec i { s with agenda := ts, hostProgram := rest } = .next t ∧ t.hostProgram = rest) ∨
      (∃ rest, s.hostProgram = .waitIdle :: rest ∧
        t = { s with
          agenda := ts
          hostProgram := if s.phase.busy then s.hostProgram else rest
          hostReads := s.status :: s.hostReads })

/-- R324: FAILED is entered only by a SETUP rejected for CONFIG or SCRIPT, in the host's step that writes OP = 0x01 to CMD;
it is left by no step but a block reset, emits
nothing, is not BUSY, reads GEOM_* as 0, and rejects every CMD write and every CFG_* write. -/
def Obligations.FailedIsTerminal : Prop :=
  (∀ s t : State, s.Inv → step s = .next t → s.phase ≠ .failed → t.phase = .failed →
    s.phase = .uninit ∧
      (∃ ts v rest, s.agenda = .host :: ts ∧ s.hostProgram = .access (wr 0x00 v) :: rest ∧ opField v = 0x01) ∧
      ((s.geometryValid s.resolveGeometry = false ∧ t.err = s.err ||| 0b00001) ∨
        (s.geometryValid s.resolveGeometry = true ∧ validate s.rom = false ∧ t.err = s.err ||| 0b00010))) ∧
  ∀ s : State, s.Inv → s.phase = .failed →
    s.geom = ⟨0, 0, 0, 0⟩ ∧ s.phase.busy = false ∧
    (∀ v, ∀ i ∈ [Instr.regCfgWidth (.write v), .regCfgHeight (.write v), .regCfgColstart (.write v),
        .regCfgRowstart (.write v), .regCfgMode (.write v)],
      exec i s = .next { s with err := s.err ||| 0b00100 }) ∧
    (∀ t, step s = .next t → s.agenda.head? ≠ some .blockReset → t.phase = .failed ∧ t.trace = s.trace) ∧
    (∀ v, exec (.regCmd (.write v)) s =
      .next { s with err := s.err ||| (if opField v ∈ [0x01, 0x02, 0x03] then 0b00100 else 0b10000) })

/-- R360, R362: a block reset sets every element of R54, ends the old trace with DESEL if CS_N was 0 and with RST(1) if RST
was 0, and keeps the ROM and the parameters. The model's choices (DESIGN CHOICE): `pc` and `s.recLeft`, which R54 leaves
unspecified, become 0 (log 5); the ended trace is kept in `history`, with DESEL before RST(1) where both lines were low
(log 10); the host's program, the agenda and the values read stay (log 18). -/
def Obligations.BlockResetRestoresTheResetValues : Prop :=
  ∀ (s : State) (ts : List Turn), s.agenda = .blockReset :: ts →
    ∃ t, step s = .next t ∧
      t = { State.reset with
        fb := t.fb, rom := s.rom, par := s.par, history := t.history, hostProgram := s.hostProgram, agenda := ts
        hostReads := s.hostReads } ∧
      t.history = (s.trace ++ (if s.csN then [] else [.desel]) ++ (if s.rst then [] else [.rst true])) :: s.history ∧
      t.fb.cells = [] ∧ t.fb.zeroed = 0

/-! ## Runs -/

/-- R233, R235: from a state that satisfies the invariant, a SETUP that passes validation runs, in sequencer steps alone,
to READY; the trace has gained exactly the events of R235, GEOM_* hold the resolved geometry, the active part of FB is
all zero and the rest of it is as it was. That `pc` and `s.recLeft`, which R46 leaves unspecified outside playback, still hold
in READY what R186 leaves in them is the model's choice (DESIGN CHOICE, log 5). -/
def Obligations.SetupRunsToReady : Prop :=
  ∀ (s : State) (g : BitVec 24), s.Inv → s.phase = .uninit →
    s.geometryValid s.resolveGeometry = true → validate s.rom = true →
    ∃ t n fb, exec (.setup g) s = .next t ∧
      t.runSequencer n = .next { s with
        phase := .ready
        geomWidth := s.resolveGeometry.w
        geomHeight := s.resolveGeometry.h
        geomColstart := s.resolveGeometry.cs
        geomRowstart := s.resolveGeometry.rs
        pc := BitVec.ofNat 16 s.rom.length
        recLeft := 0
        fb := fb
        csN := true
        dc := if s.invert then s.par.dcCmdLevel else !s.par.dcCmdLevel
        wireLog := s.setupEvents.reverse ++ s.wireLog
        agenda := [] } ∧
      (∀ a, fb.read a = if a < s.resolveGeometry.bytes s.bpp then 0 else s.fb.read a)

/-- R300, R301, R304: from a state that satisfies the invariant, an UPDATE in READY runs, in 14 + 2 × W × H sequencer steps,
back to READY; it has appended the events of R301, changed nothing else but the level of DC, and the next UPDATE would
append the same events again. The count of steps, in which STATE's return to READY is a step of its own, is the model's
choice (DESIGN CHOICE, log 6). -/
def Obligations.UpdateRunsToReady : Prop :=
  ∀ (s : State) (g : BitVec 24), s.Inv → s.phase = .ready →
    ∃ t u, exec (.update g) s = .next t ∧
      t.runSequencer (14 + 2 * (s.geomWidth.toNat * s.geomHeight.toNat)) = .next u ∧
      u = { s with
        dc := !s.par.dcCmdLevel
        wireLog := s.updateEvents.reverse ++ s.wireLog
        agenda := [] } ∧
      u.updateEvents = s.updateEvents ∧ s.pixelStream.length = 2 * (s.geomWidth.toNat * s.geomHeight.toNat)

/-- R375: under fairness, taken here as sequencer steps that do come, every operation ends: from a state that satisfies the
invariant the sequencer reaches, in finitely many steps, a state that is not BUSY. -/
def Obligations.EveryOperationEnds : Prop :=
  ∀ s : State, s.Inv → ∃ n t, s.runSequencer n = .next t ∧ t.phase.busy = false ∧ t.pending = []

/-- R301, R372, R373: the CMD events of an UPDATE are the three commands in their order and its DAT events carry the two
windows and the pixel stream, 8 + 2WH bytes; so its bytes are 8 × (11 + 2WH) SCLK cycles, and take that many P_SCLK_HZ-ths of
a second at the least. The waits of a SETUP add up to 11 ms for the reset pulse, 100 ms, and the script's delays. -/
def Obligations.EventCountsAndWaits : Prop :=
  (∀ s : State,
    s.updateEvents.filterMap WireEvent.commandByte = [s.par.cmdCaset, s.par.cmdRaset, s.par.cmdRamwr] ∧
    s.updateEvents.filterMap WireEvent.dataByte = waddr s.x1 s.x2 ++ waddr s.y1 s.y2 ++ s.pixelStream ∧
    (s.updateEvents.filterMap WireEvent.dataByte).length = 8 + 2 * (s.geomWidth.toNat * s.geomHeight.toNat) ∧
    sclkCycles s.par s.updateEvents = 8 * (11 + 2 * (s.geomWidth.toNat * s.geomHeight.toNat)) ∧
    (0 < s.par.sclkHz → minByteSeconds s.par s.updateEvents * s.par.sclkHz =
      8 * (11 + 2 * (s.geomWidth.toNat * s.geomHeight.toNat)))) ∧
  (∀ (s : State) (rs : List Record), decodeImage s.rom = .ok rs →
    minMs s.setupEvents =
      (if s.rstPresent then 11 else 0) + 100 + (rs.flatMap (fun r => r.delay.toList.map delayMs)).sum)
end

