-- ==== Sys2Proof/Laws/PixelBuffer.lean ====
section
/-! SUPPORT. The pixel buffer: read after write, and every operation keeps the canonical form. -/

namespace Sys2Proof.Machine

/-! ## Cell lists -/

/-- A cell list with strictly rising addresses. -/
abbrev Rising (cs : List Host.Cell) : Prop := cs.Pairwise (fun c d => c.1 < d.1)

theorem lookupCell_eq_none_of_lt {a : Nat} {cs : List Host.Cell} (h : ∀ c ∈ cs, a < c.1) : lookupCell a cs = none := by
  induction cs with
  | nil => rfl
  | cons c cs ih =>
    obtain ⟨b, w⟩ := c
    have hb : a < b := h (b, w) (by simp)
    simp only [lookupCell, if_neg (Nat.ne_of_lt hb)]
    exact ih fun c hc => h c (by simp [hc])

/-- Looking up after listing or unlisting an address. -/
theorem lookupCell_setCell (a : Nat) (v : Option Byte) (x : Nat) {cs : List Host.Cell} (h : Rising cs) :
    lookupCell x (setCell a v cs) = if x = a then v else lookupCell x cs := by
  induction cs with
  | nil => cases v <;> simp [setCell, lookupCell]
  | cons c cs ih =>
    obtain ⟨b, w⟩ := c
    obtain ⟨hb, hcs⟩ := List.pairwise_cons.1 h
    have hnone : ∀ y, y ≤ b → lookupCell y cs = none := fun y hy =>
      lookupCell_eq_none_of_lt fun c hc => Nat.lt_of_le_of_lt hy (hb c hc)
    simp only [setCell]
    split
    · next hlt =>
      cases v with
      | some v => simp [lookupCell]
      | none =>
        simp only [Option.toList_none, List.map_nil, List.nil_append]
        split
        · next hx =>
          subst hx
          rw [lookupCell, if_neg (Nat.ne_of_lt hlt), hnone _ (Nat.le_of_lt hlt)]
        · rfl
    · split
      · next hab =>
        subst hab
        cases v with
        | some v =>
          by_cases hx : x = a <;> simp [lookupCell, hx]
        | none =>
          by_cases hx : x = a
          · simp [hx, hnone a (Nat.le_refl a)]
          · simp [lookupCell, hx]
      · next hlt hne =>
        by_cases hx : x = b
        · subst hx
          have : x ≠ a := fun h' => hne h'.symm
          simp [lookupCell, this]
        · simp [lookupCell, hx, ih hcs]

theorem mem_setCell {a : Nat} {v : Option Byte} {c : Host.Cell} {cs : List Host.Cell} (h : c ∈ setCell a v cs) :
    c ∈ cs ∨ (c.1 = a ∧ v = some c.2) := by
  induction cs with
  | nil => cases v <;> simp_all [setCell]
  | cons d cs ih =>
    simp only [setCell] at h
    split at h
    · cases v <;> aesop
    · split at h
      · cases v <;> aesop
      · simp only [List.mem_cons] at h ⊢
        rcases h with h | h
        · exact .inl (.inl h)
        · rcases ih h with h | h
          · exact .inl (.inr h)
          · exact .inr h

theorem setCell_rising (a : Nat) (v : Option Byte) {cs : List Host.Cell} (h : Rising cs) : Rising (setCell a v cs) := by
  induction cs with
  | nil => cases v <;> simp [setCell, Rising]
  | cons c cs ih =>
    obtain ⟨b, w⟩ := c
    obtain ⟨hb, hcs⟩ := List.pairwise_cons.1 h
    simp only [setCell]
    split
    · next hlt =>
      cases v with
      | none => simpa using h
      | some v =>
        refine List.pairwise_cons.2 ⟨?_, h⟩
        intro d hd
        rcases List.mem_cons.1 hd with rfl | hd
        · exact hlt
        · exact Nat.lt_trans hlt (hb d hd)
    · split
      · next hab =>
        subst hab
        cases v with
        | none => simpa using hcs
        | some v => exact List.pairwise_cons.2 ⟨fun d hd => hb d hd, hcs⟩
      · next hlt hne =>
        refine List.pairwise_cons.2 ⟨?_, ih hcs⟩
        intro d hd
        rcases mem_setCell hd with hd | ⟨hd, -⟩
        · exact hb d hd
        · simp only [hd]; omega

/-! ## Canonical form -/

theorem Fb.wf_iff (m : Fb) : m.wf = true ↔ Rising m.cells ∧ ∀ c ∈ m.cells, c.2 ≠ m.unlisted c.1 := by
  simp [Fb.wf, Rising]

@[simp] theorem Fb.write_zeroed (m : Fb) (a : Nat) (v : Byte) : (m.write a v).zeroed = m.zeroed := rfl
@[simp] theorem Fb.write_epoch (m : Fb) (a : Nat) (v : Byte) : (m.write a v).epoch = m.epoch := rfl
@[simp] theorem Fb.write16_zeroed (m : Fb) (a : Nat) (v : Half) : (m.write16 a v).zeroed = m.zeroed := rfl
@[simp] theorem Fb.write16_epoch (m : Fb) (a : Nat) (v : Half) : (m.write16 a v).epoch = m.epoch := rfl
@[simp] theorem Fb.clear_zeroed (m : Fb) (n : Nat) : (m.clear n).zeroed = max m.zeroed n := rfl
@[simp] theorem Fb.clear_epoch (m : Fb) (n : Nat) : (m.clear n).epoch = m.epoch := rfl
@[simp] theorem Fb.powerOn_zeroed (m : Fb) : m.powerOn.zeroed = 0 := rfl
@[simp] theorem Fb.powerOn_cells (m : Fb) : m.powerOn.cells = [] := rfl
@[simp] theorem Fb.powerOn_epoch (m : Fb) : m.powerOn.epoch = m.epoch + 1 := rfl
@[simp] theorem Fb.write_unlisted (m : Fb) (a : Nat) (v : Byte) (x : Nat) : (m.write a v).unlisted x = m.unlisted x := rfl

/-- A byte read after a write of a byte: the value written at its address, the old value elsewhere. -/
theorem Fb.read_write {m : Fb} (h : m.wf = true) (a : Nat) (v : Byte) (x : Nat) :
    (m.write a v).read x = if x = a then v else m.read x := by
  have hr := ((Fb.wf_iff m).1 h).1
  simp only [Fb.read, Fb.write_unlisted]
  simp only [Fb.write]
  rw [lookupCell_setCell a _ x hr]
  by_cases hx : x = a
  · subst hx
    by_cases hv : v = m.unlisted x <;> simp [hv]
  · simp [hx]

theorem Fb.write_wf {m : Fb} (h : m.wf = true) (a : Nat) (v : Byte) : (m.write a v).wf = true := by
  obtain ⟨hr, hc⟩ := (Fb.wf_iff m).1 h
  refine (Fb.wf_iff _).2 ⟨setCell_rising a _ hr, fun c hcm => ?_⟩
  rw [Fb.write_unlisted]
  rcases mem_setCell hcm with hcm | ⟨rfl, hv⟩
  · exact hc c hcm
  · split at hv
    · cases hv
    · next hne => cases hv; exact hne

theorem Fb.write16_wf {m : Fb} (h : m.wf = true) (a : Nat) (v : Half) : (m.write16 a v).wf = true :=
  Fb.write_wf (Fb.write_wf h _ _) _ _

/-- A byte read after a 2-byte write: big-endian at its two addresses, the old value elsewhere (R15). -/
theorem Fb.read_write16 {m : Fb} (h : m.wf = true) (a : Nat) (v : Half) (x : Nat) :
    (m.write16 a v).read x = if x = a then hi8 v else if x = a + 1 then lo8 v else m.read x := by
  rw [Fb.write16, Fb.read_write (Fb.write_wf h _ _), Fb.read_write h]
  by_cases h1 : x = a + 1
  · subst h1; simp
  · simp [h1]

theorem Fb.clear_wf {m : Fb} (h : m.wf = true) (n : Nat) : (m.clear n).wf = true := by
  obtain ⟨hr, hc⟩ := (Fb.wf_iff m).1 h
  refine (Fb.wf_iff _).2 ⟨hr.filter _, fun c hcm => ?_⟩
  simp only [Fb.clear, List.mem_filter, decide_eq_true_eq] at hcm
  have := hc c hcm.1
  have heq : (m.clear n).unlisted c.1 = m.unlisted c.1 := by
    simp only [Fb.unlisted, Fb.clear_zeroed, Fb.clear_epoch]
    have : c.1 < max m.zeroed n ↔ c.1 < m.zeroed := by omega
    simp [this]
  rwa [heq]

theorem lookupCell_filter (n x : Nat) (cs : List Host.Cell) :
    lookupCell x (cs.filter (fun c => decide (n ≤ c.1))) = if x < n then none else lookupCell x cs := by
  induction cs with
  | nil => simp [lookupCell]
  | cons c cs ih =>
    obtain ⟨b, w⟩ := c
    by_cases hb : n ≤ b
    · by_cases hx : x = b
      · subst hx
        simp [lookupCell, hb, Nat.not_lt.2 hb]
      · simp [lookupCell, hb, hx, ih]
    · by_cases hx : x = b
      · subst hx
        simp [hb, ih, Nat.lt_of_not_le hb]
      · simp [lookupCell, hb, hx, ih]

/-- A byte read after a clear: 0 in the cleared part, the old value beyond it (R232). -/
theorem Fb.read_clear (m : Fb) (n x : Nat) : (m.clear n).read x = if x < n then 0 else m.read x := by
  simp only [Fb.read, Fb.unlisted, Fb.clear_zeroed, Fb.clear_epoch]
  simp only [Fb.clear, lookupCell_filter]
  by_cases hx : x < n
  · simp [hx]
  · have : x < max m.zeroed n ↔ x < m.zeroed := by omega
    simp [hx, this]

theorem Fb.powerOn_wf (m : Fb) : m.powerOn.wf = true := by simp [Fb.wf, Fb.powerOn]

/-- Every listed byte after a write was listed before or is the written one. -/
theorem Fb.write_listed {m : Fb} {a n : Nat} {v : Byte} (h : ∀ c ∈ m.cells, c.1 < n) (ha : a < n) :
    ∀ c ∈ (m.write a v).cells, c.1 < n := by
  intro c hc
  rcases mem_setCell hc with hc | ⟨hc, -⟩
  · exact h c hc
  · omega

end Sys2Proof.Machine
end

