-- ==== Sys2Proof/Laws/State.lean ====
section
/-! SUPPORT. One lemma per field per named update of State, true by rfl: what a later proof uses instead of
unfolding the update. -/

namespace Sys2Proof.Machine

/-! ## `emit` -/

@[simp] theorem emit_phase (s : State) (e : WireEvent) : (s.emit e).phase = s.phase := rfl
@[simp] theorem emit_err (s : State) (e : WireEvent) : (s.emit e).err = s.err := rfl
@[simp] theorem emit_cfgWidth (s : State) (e : WireEvent) : (s.emit e).cfgWidth = s.cfgWidth := rfl
@[simp] theorem emit_cfgHeight (s : State) (e : WireEvent) : (s.emit e).cfgHeight = s.cfgHeight := rfl
@[simp] theorem emit_cfgColstart (s : State) (e : WireEvent) : (s.emit e).cfgColstart = s.cfgColstart := rfl
@[simp] theorem emit_cfgRowstart (s : State) (e : WireEvent) : (s.emit e).cfgRowstart = s.cfgRowstart := rfl
@[simp] theorem emit_cfgMode (s : State) (e : WireEvent) : (s.emit e).cfgMode = s.cfgMode := rfl
@[simp] theorem emit_geomWidth (s : State) (e : WireEvent) : (s.emit e).geomWidth = s.geomWidth := rfl
@[simp] theorem emit_geomHeight (s : State) (e : WireEvent) : (s.emit e).geomHeight = s.geomHeight := rfl
@[simp] theorem emit_geomColstart (s : State) (e : WireEvent) : (s.emit e).geomColstart = s.geomColstart := rfl
@[simp] theorem emit_geomRowstart (s : State) (e : WireEvent) : (s.emit e).geomRowstart = s.geomRowstart := rfl
@[simp] theorem emit_pixX (s : State) (e : WireEvent) : (s.emit e).pixX = s.pixX := rfl
@[simp] theorem emit_pixY (s : State) (e : WireEvent) : (s.emit e).pixY = s.pixY := rfl
@[simp] theorem emit_pixColor (s : State) (e : WireEvent) : (s.emit e).pixColor = s.pixColor := rfl
@[simp] theorem emit_pc (s : State) (e : WireEvent) : (s.emit e).pc = s.pc := rfl
@[simp] theorem emit_recLeft (s : State) (e : WireEvent) : (s.emit e).recLeft = s.recLeft := rfl
@[simp] theorem emit_pending (s : State) (e : WireEvent) : (s.emit e).pending = s.pending := rfl
@[simp] theorem emit_fb (s : State) (e : WireEvent) : (s.emit e).fb = s.fb := rfl
@[simp] theorem emit_csN (s : State) (e : WireEvent) : (s.emit e).csN = e.csAfter s.csN := rfl
@[simp] theorem emit_dc (s : State) (e : WireEvent) : (s.emit e).dc = e.dcAfter s.par s.dc := rfl
@[simp] theorem emit_rst (s : State) (e : WireEvent) : (s.emit e).rst = e.rstAfter s.rst := rfl
@[simp] theorem emit_wireLog (s : State) (e : WireEvent) : (s.emit e).wireLog = e :: s.wireLog := rfl
@[simp] theorem emit_rom (s : State) (e : WireEvent) : (s.emit e).rom = s.rom := rfl
@[simp] theorem emit_par (s : State) (e : WireEvent) : (s.emit e).par = s.par := rfl
@[simp] theorem emit_history (s : State) (e : WireEvent) : (s.emit e).history = s.history := rfl
@[simp] theorem emit_hostProgram (s : State) (e : WireEvent) : (s.emit e).hostProgram = s.hostProgram := rfl
@[simp] theorem emit_agenda (s : State) (e : WireEvent) : (s.emit e).agenda = s.agenda := rfl
@[simp] theorem emit_hostReads (s : State) (e : WireEvent) : (s.emit e).hostReads = s.hostReads := rfl

/-! ## `begin` -/

@[simp] theorem begin_phase (s : State) (e : WireEvent) (ms : List Micro) : (s.begin e ms).phase = s.phase := rfl
@[simp] theorem begin_err (s : State) (e : WireEvent) (ms : List Micro) : (s.begin e ms).err = s.err := rfl
@[simp] theorem begin_cfgWidth (s : State) (e : WireEvent) (ms : List Micro) : (s.begin e ms).cfgWidth = s.cfgWidth := rfl
@[simp] theorem begin_cfgHeight (s : State) (e : WireEvent) (ms : List Micro) : (s.begin e ms).cfgHeight = s.cfgHeight := rfl
@[simp] theorem begin_cfgColstart (s : State) (e : WireEvent) (ms : List Micro) : (s.begin e ms).cfgColstart = s.cfgColstart := rfl
@[simp] theorem begin_cfgRowstart (s : State) (e : WireEvent) (ms : List Micro) : (s.begin e ms).cfgRowstart = s.cfgRowstart := rfl
@[simp] theorem begin_cfgMode (s : State) (e : WireEvent) (ms : List Micro) : (s.begin e ms).cfgMode = s.cfgMode := rfl
@[simp] theorem begin_geomWidth (s : State) (e : WireEvent) (ms : List Micro) : (s.begin e ms).geomWidth = s.geomWidth := rfl
@[simp] theorem begin_geomHeight (s : State) (e : WireEvent) (ms : List Micro) : (s.begin e ms).geomHeight = s.geomHeight := rfl
@[simp] theorem begin_geomColstart (s : State) (e : WireEvent) (ms : List Micro) : (s.begin e ms).geomColstart = s.geomColstart := rfl
@[simp] theorem begin_geomRowstart (s : State) (e : WireEvent) (ms : List Micro) : (s.begin e ms).geomRowstart = s.geomRowstart := rfl
@[simp] theorem begin_pixX (s : State) (e : WireEvent) (ms : List Micro) : (s.begin e ms).pixX = s.pixX := rfl
@[simp] theorem begin_pixY (s : State) (e : WireEvent) (ms : List Micro) : (s.begin e ms).pixY = s.pixY := rfl
@[simp] theorem begin_pixColor (s : State) (e : WireEvent) (ms : List Micro) : (s.begin e ms).pixColor = s.pixColor := rfl
@[simp] theorem begin_pc (s : State) (e : WireEvent) (ms : List Micro) : (s.begin e ms).pc = s.pc := rfl
@[simp] theorem begin_recLeft (s : State) (e : WireEvent) (ms : List Micro) : (s.begin e ms).recLeft = s.recLeft := rfl
@[simp] theorem begin_pending (s : State) (e : WireEvent) (ms : List Micro) : (s.begin e ms).pending = ms ++ s.pending := rfl
@[simp] theorem begin_fb (s : State) (e : WireEvent) (ms : List Micro) : (s.begin e ms).fb = s.fb := rfl
@[simp] theorem begin_csN (s : State) (e : WireEvent) (ms : List Micro) : (s.begin e ms).csN = e.csAfter s.csN := rfl
@[simp] theorem begin_dc (s : State) (e : WireEvent) (ms : List Micro) : (s.begin e ms).dc = e.dcAfter s.par s.dc := rfl
@[simp] theorem begin_rst (s : State) (e : WireEvent) (ms : List Micro) : (s.begin e ms).rst = e.rstAfter s.rst := rfl
@[simp] theorem begin_wireLog (s : State) (e : WireEvent) (ms : List Micro) : (s.begin e ms).wireLog = e :: s.wireLog := rfl
@[simp] theorem begin_rom (s : State) (e : WireEvent) (ms : List Micro) : (s.begin e ms).rom = s.rom := rfl
@[simp] theorem begin_par (s : State) (e : WireEvent) (ms : List Micro) : (s.begin e ms).par = s.par := rfl
@[simp] theorem begin_history (s : State) (e : WireEvent) (ms : List Micro) : (s.begin e ms).history = s.history := rfl
@[simp] theorem begin_hostProgram (s : State) (e : WireEvent) (ms : List Micro) : (s.begin e ms).hostProgram = s.hostProgram := rfl
@[simp] theorem begin_agenda (s : State) (e : WireEvent) (ms : List Micro) : (s.begin e ms).agenda = s.agenda := rfl
@[simp] theorem begin_hostReads (s : State) (e : WireEvent) (ms : List Micro) : (s.begin e ms).hostReads = s.hostReads := rfl

/-! ## `returnRead` -/

@[simp] theorem returnRead_phase (s : State) (v : Word) : (s.returnRead v).phase = s.phase := rfl
@[simp] theorem returnRead_err (s : State) (v : Word) : (s.returnRead v).err = s.err := rfl
@[simp] theorem returnRead_cfgWidth (s : State) (v : Word) : (s.returnRead v).cfgWidth = s.cfgWidth := rfl
@[simp] theorem returnRead_cfgHeight (s : State) (v : Word) : (s.returnRead v).cfgHeight = s.cfgHeight := rfl
@[simp] theorem returnRead_cfgColstart (s : State) (v : Word) : (s.returnRead v).cfgColstart = s.cfgColstart := rfl
@[simp] theorem returnRead_cfgRowstart (s : State) (v : Word) : (s.returnRead v).cfgRowstart = s.cfgRowstart := rfl
@[simp] theorem returnRead_cfgMode (s : State) (v : Word) : (s.returnRead v).cfgMode = s.cfgMode := rfl
@[simp] theorem returnRead_geomWidth (s : State) (v : Word) : (s.returnRead v).geomWidth = s.geomWidth := rfl
@[simp] theorem returnRead_geomHeight (s : State) (v : Word) : (s.returnRead v).geomHeight = s.geomHeight := rfl
@[simp] theorem returnRead_geomColstart (s : State) (v : Word) : (s.returnRead v).geomColstart = s.geomColstart := rfl
@[simp] theorem returnRead_geomRowstart (s : State) (v : Word) : (s.returnRead v).geomRowstart = s.geomRowstart := rfl
@[simp] theorem returnRead_pixX (s : State) (v : Word) : (s.returnRead v).pixX = s.pixX := rfl
@[simp] theorem returnRead_pixY (s : State) (v : Word) : (s.returnRead v).pixY = s.pixY := rfl
@[simp] theorem returnRead_pixColor (s : State) (v : Word) : (s.returnRead v).pixColor = s.pixColor := rfl
@[simp] theorem returnRead_pc (s : State) (v : Word) : (s.returnRead v).pc = s.pc := rfl
@[simp] theorem returnRead_recLeft (s : State) (v : Word) : (s.returnRead v).recLeft = s.recLeft := rfl
@[simp] theorem returnRead_pending (s : State) (v : Word) : (s.returnRead v).pending = s.pending := rfl
@[simp] theorem returnRead_fb (s : State) (v : Word) : (s.returnRead v).fb = s.fb := rfl
@[simp] theorem returnRead_csN (s : State) (v : Word) : (s.returnRead v).csN = s.csN := rfl
@[simp] theorem returnRead_dc (s : State) (v : Word) : (s.returnRead v).dc = s.dc := rfl
@[simp] theorem returnRead_rst (s : State) (v : Word) : (s.returnRead v).rst = s.rst := rfl
@[simp] theorem returnRead_wireLog (s : State) (v : Word) : (s.returnRead v).wireLog = s.wireLog := rfl
@[simp] theorem returnRead_rom (s : State) (v : Word) : (s.returnRead v).rom = s.rom := rfl
@[simp] theorem returnRead_par (s : State) (v : Word) : (s.returnRead v).par = s.par := rfl
@[simp] theorem returnRead_history (s : State) (v : Word) : (s.returnRead v).history = s.history := rfl
@[simp] theorem returnRead_hostProgram (s : State) (v : Word) : (s.returnRead v).hostProgram = s.hostProgram := rfl
@[simp] theorem returnRead_agenda (s : State) (v : Word) : (s.returnRead v).agenda = s.agenda := rfl
@[simp] theorem returnRead_hostReads (s : State) (v : Word) : (s.returnRead v).hostReads = v :: s.hostReads := rfl

/-! ## `raise` -/

@[simp] theorem raise_phase (s : State) (e : Err) : (s.raise e).phase = s.phase := rfl
@[simp] theorem raise_err (s : State) (e : Err) : (s.raise e).err = s.err ||| e.mask := rfl
@[simp] theorem raise_cfgWidth (s : State) (e : Err) : (s.raise e).cfgWidth = s.cfgWidth := rfl
@[simp] theorem raise_cfgHeight (s : State) (e : Err) : (s.raise e).cfgHeight = s.cfgHeight := rfl
@[simp] theorem raise_cfgColstart (s : State) (e : Err) : (s.raise e).cfgColstart = s.cfgColstart := rfl
@[simp] theorem raise_cfgRowstart (s : State) (e : Err) : (s.raise e).cfgRowstart = s.cfgRowstart := rfl
@[simp] theorem raise_cfgMode (s : State) (e : Err) : (s.raise e).cfgMode = s.cfgMode := rfl
@[simp] theorem raise_geomWidth (s : State) (e : Err) : (s.raise e).geomWidth = s.geomWidth := rfl
@[simp] theorem raise_geomHeight (s : State) (e : Err) : (s.raise e).geomHeight = s.geomHeight := rfl
@[simp] theorem raise_geomColstart (s : State) (e : Err) : (s.raise e).geomColstart = s.geomColstart := rfl
@[simp] theorem raise_geomRowstart (s : State) (e : Err) : (s.raise e).geomRowstart = s.geomRowstart := rfl
@[simp] theorem raise_pixX (s : State) (e : Err) : (s.raise e).pixX = s.pixX := rfl
@[simp] theorem raise_pixY (s : State) (e : Err) : (s.raise e).pixY = s.pixY := rfl
@[simp] theorem raise_pixColor (s : State) (e : Err) : (s.raise e).pixColor = s.pixColor := rfl
@[simp] theorem raise_pc (s : State) (e : Err) : (s.raise e).pc = s.pc := rfl
@[simp] theorem raise_recLeft (s : State) (e : Err) : (s.raise e).recLeft = s.recLeft := rfl
@[simp] theorem raise_pending (s : State) (e : Err) : (s.raise e).pending = s.pending := rfl
@[simp] theorem raise_fb (s : State) (e : Err) : (s.raise e).fb = s.fb := rfl
@[simp] theorem raise_csN (s : State) (e : Err) : (s.raise e).csN = s.csN := rfl
@[simp] theorem raise_dc (s : State) (e : Err) : (s.raise e).dc = s.dc := rfl
@[simp] theorem raise_rst (s : State) (e : Err) : (s.raise e).rst = s.rst := rfl
@[simp] theorem raise_wireLog (s : State) (e : Err) : (s.raise e).wireLog = s.wireLog := rfl
@[simp] theorem raise_rom (s : State) (e : Err) : (s.raise e).rom = s.rom := rfl
@[simp] theorem raise_par (s : State) (e : Err) : (s.raise e).par = s.par := rfl
@[simp] theorem raise_history (s : State) (e : Err) : (s.raise e).history = s.history := rfl
@[simp] theorem raise_hostProgram (s : State) (e : Err) : (s.raise e).hostProgram = s.hostProgram := rfl
@[simp] theorem raise_agenda (s : State) (e : Err) : (s.raise e).agenda = s.agenda := rfl
@[simp] theorem raise_hostReads (s : State) (e : Err) : (s.raise e).hostReads = s.hostReads := rfl

/-! ## `failSetup` -/

@[simp] theorem failSetup_phase (s : State) (e : Err) : (s.failSetup e).phase = .failed := rfl
@[simp] theorem failSetup_err (s : State) (e : Err) : (s.failSetup e).err = s.err ||| e.mask := rfl
@[simp] theorem failSetup_cfgWidth (s : State) (e : Err) : (s.failSetup e).cfgWidth = s.cfgWidth := rfl
@[simp] theorem failSetup_cfgHeight (s : State) (e : Err) : (s.failSetup e).cfgHeight = s.cfgHeight := rfl
@[simp] theorem failSetup_cfgColstart (s : State) (e : Err) : (s.failSetup e).cfgColstart = s.cfgColstart := rfl
@[simp] theorem failSetup_cfgRowstart (s : State) (e : Err) : (s.failSetup e).cfgRowstart = s.cfgRowstart := rfl
@[simp] theorem failSetup_cfgMode (s : State) (e : Err) : (s.failSetup e).cfgMode = s.cfgMode := rfl
@[simp] theorem failSetup_geomWidth (s : State) (e : Err) : (s.failSetup e).geomWidth = s.geomWidth := rfl
@[simp] theorem failSetup_geomHeight (s : State) (e : Err) : (s.failSetup e).geomHeight = s.geomHeight := rfl
@[simp] theorem failSetup_geomColstart (s : State) (e : Err) : (s.failSetup e).geomColstart = s.geomColstart := rfl
@[simp] theorem failSetup_geomRowstart (s : State) (e : Err) : (s.failSetup e).geomRowstart = s.geomRowstart := rfl
@[simp] theorem failSetup_pixX (s : State) (e : Err) : (s.failSetup e).pixX = s.pixX := rfl
@[simp] theorem failSetup_pixY (s : State) (e : Err) : (s.failSetup e).pixY = s.pixY := rfl
@[simp] theorem failSetup_pixColor (s : State) (e : Err) : (s.failSetup e).pixColor = s.pixColor := rfl
@[simp] theorem failSetup_pc (s : State) (e : Err) : (s.failSetup e).pc = s.pc := rfl
@[simp] theorem failSetup_recLeft (s : State) (e : Err) : (s.failSetup e).recLeft = s.recLeft := rfl
@[simp] theorem failSetup_pending (s : State) (e : Err) : (s.failSetup e).pending = s.pending := rfl
@[simp] theorem failSetup_fb (s : State) (e : Err) : (s.failSetup e).fb = s.fb := rfl
@[simp] theorem failSetup_csN (s : State) (e : Err) : (s.failSetup e).csN = s.csN := rfl
@[simp] theorem failSetup_dc (s : State) (e : Err) : (s.failSetup e).dc = s.dc := rfl
@[simp] theorem failSetup_rst (s : State) (e : Err) : (s.failSetup e).rst = s.rst := rfl
@[simp] theorem failSetup_wireLog (s : State) (e : Err) : (s.failSetup e).wireLog = s.wireLog := rfl
@[simp] theorem failSetup_rom (s : State) (e : Err) : (s.failSetup e).rom = s.rom := rfl
@[simp] theorem failSetup_par (s : State) (e : Err) : (s.failSetup e).par = s.par := rfl
@[simp] theorem failSetup_history (s : State) (e : Err) : (s.failSetup e).history = s.history := rfl
@[simp] theorem failSetup_hostProgram (s : State) (e : Err) : (s.failSetup e).hostProgram = s.hostProgram := rfl
@[simp] theorem failSetup_agenda (s : State) (e : Err) : (s.failSetup e).agenda = s.agenda := rfl
@[simp] theorem failSetup_hostReads (s : State) (e : Err) : (s.failSetup e).hostReads = s.hostReads := rfl

/-! ## `startUpdate` -/

@[simp] theorem startUpdate_phase (s : State) : s.startUpdate.phase = .transmitting := rfl
@[simp] theorem startUpdate_err (s : State) : s.startUpdate.err = s.err := rfl
@[simp] theorem startUpdate_cfgWidth (s : State) : s.startUpdate.cfgWidth = s.cfgWidth := rfl
@[simp] theorem startUpdate_cfgHeight (s : State) : s.startUpdate.cfgHeight = s.cfgHeight := rfl
@[simp] theorem startUpdate_cfgColstart (s : State) : s.startUpdate.cfgColstart = s.cfgColstart := rfl
@[simp] theorem startUpdate_cfgRowstart (s : State) : s.startUpdate.cfgRowstart = s.cfgRowstart := rfl
@[simp] theorem startUpdate_cfgMode (s : State) : s.startUpdate.cfgMode = s.cfgMode := rfl
@[simp] theorem startUpdate_geomWidth (s : State) : s.startUpdate.geomWidth = s.geomWidth := rfl
@[simp] theorem startUpdate_geomHeight (s : State) : s.startUpdate.geomHeight = s.geomHeight := rfl
@[simp] theorem startUpdate_geomColstart (s : State) : s.startUpdate.geomColstart = s.geomColstart := rfl
@[simp] theorem startUpdate_geomRowstart (s : State) : s.startUpdate.geomRowstart = s.geomRowstart := rfl
@[simp] theorem startUpdate_pixX (s : State) : s.startUpdate.pixX = s.pixX := rfl
@[simp] theorem startUpdate_pixY (s : State) : s.startUpdate.pixY = s.pixY := rfl
@[simp] theorem startUpdate_pixColor (s : State) : s.startUpdate.pixColor = s.pixColor := rfl
@[simp] theorem startUpdate_pc (s : State) : s.startUpdate.pc = s.pc := rfl
@[simp] theorem startUpdate_recLeft (s : State) : s.startUpdate.recLeft = s.recLeft := rfl
@[simp] theorem startUpdate_pending (s : State) : s.startUpdate.pending = updateSteps := rfl
@[simp] theorem startUpdate_fb (s : State) : s.startUpdate.fb = s.fb := rfl
@[simp] theorem startUpdate_csN (s : State) : s.startUpdate.csN = s.csN := rfl
@[simp] theorem startUpdate_dc (s : State) : s.startUpdate.dc = s.dc := rfl
@[simp] theorem startUpdate_rst (s : State) : s.startUpdate.rst = s.rst := rfl
@[simp] theorem startUpdate_wireLog (s : State) : s.startUpdate.wireLog = s.wireLog := rfl
@[simp] theorem startUpdate_rom (s : State) : s.startUpdate.rom = s.rom := rfl
@[simp] theorem startUpdate_par (s : State) : s.startUpdate.par = s.par := rfl
@[simp] theorem startUpdate_history (s : State) : s.startUpdate.history = s.history := rfl
@[simp] theorem startUpdate_hostProgram (s : State) : s.startUpdate.hostProgram = s.hostProgram := rfl
@[simp] theorem startUpdate_agenda (s : State) : s.startUpdate.agenda = s.agenda := rfl
@[simp] theorem startUpdate_hostReads (s : State) : s.startUpdate.hostReads = s.hostReads := rfl

/-! ## `startPlayback` -/

@[simp] theorem startPlayback_phase (s : State) : s.startPlayback.phase = .playingInit := rfl
@[simp] theorem startPlayback_err (s : State) : s.startPlayback.err = s.err := rfl
@[simp] theorem startPlayback_cfgWidth (s : State) : s.startPlayback.cfgWidth = s.cfgWidth := rfl
@[simp] theorem startPlayback_cfgHeight (s : State) : s.startPlayback.cfgHeight = s.cfgHeight := rfl
@[simp] theorem startPlayback_cfgColstart (s : State) : s.startPlayback.cfgColstart = s.cfgColstart := rfl
@[simp] theorem startPlayback_cfgRowstart (s : State) : s.startPlayback.cfgRowstart = s.cfgRowstart := rfl
@[simp] theorem startPlayback_cfgMode (s : State) : s.startPlayback.cfgMode = s.cfgMode := rfl
@[simp] theorem startPlayback_geomWidth (s : State) : s.startPlayback.geomWidth = s.geomWidth := rfl
@[simp] theorem startPlayback_geomHeight (s : State) : s.startPlayback.geomHeight = s.geomHeight := rfl
@[simp] theorem startPlayback_geomColstart (s : State) : s.startPlayback.geomColstart = s.geomColstart := rfl
@[simp] theorem startPlayback_geomRowstart (s : State) : s.startPlayback.geomRowstart = s.geomRowstart := rfl
@[simp] theorem startPlayback_pixX (s : State) : s.startPlayback.pixX = s.pixX := rfl
@[simp] theorem startPlayback_pixY (s : State) : s.startPlayback.pixY = s.pixY := rfl
@[simp] theorem startPlayback_pixColor (s : State) : s.startPlayback.pixColor = s.pixColor := rfl
@[simp] theorem startPlayback_pc (s : State) : s.startPlayback.pc = 0 := rfl
@[simp] theorem startPlayback_recLeft (s : State) : s.startPlayback.recLeft = s.recLeft := rfl
@[simp] theorem startPlayback_pending (s : State) : s.startPlayback.pending = s.pending := rfl
@[simp] theorem startPlayback_fb (s : State) : s.startPlayback.fb = s.fb := rfl
@[simp] theorem startPlayback_csN (s : State) : s.startPlayback.csN = s.csN := rfl
@[simp] theorem startPlayback_dc (s : State) : s.startPlayback.dc = s.dc := rfl
@[simp] theorem startPlayback_rst (s : State) : s.startPlayback.rst = s.rst := rfl
@[simp] theorem startPlayback_wireLog (s : State) : s.startPlayback.wireLog = s.wireLog := rfl
@[simp] theorem startPlayback_rom (s : State) : s.startPlayback.rom = s.rom := rfl
@[simp] theorem startPlayback_par (s : State) : s.startPlayback.par = s.par := rfl
@[simp] theorem startPlayback_history (s : State) : s.startPlayback.history = s.history := rfl
@[simp] theorem startPlayback_hostProgram (s : State) : s.startPlayback.hostProgram = s.hostProgram := rfl
@[simp] theorem startPlayback_agenda (s : State) : s.startPlayback.agenda = s.agenda := rfl
@[simp] theorem startPlayback_hostReads (s : State) : s.startPlayback.hostReads = s.hostReads := rfl

/-! ## `resolve` -/

@[simp] theorem resolve_phase (s : State) : s.resolve.phase = .configMode := rfl
@[simp] theorem resolve_err (s : State) : s.resolve.err = s.err := rfl
@[simp] theorem resolve_cfgWidth (s : State) : s.resolve.cfgWidth = s.cfgWidth := rfl
@[simp] theorem resolve_cfgHeight (s : State) : s.resolve.cfgHeight = s.cfgHeight := rfl
@[simp] theorem resolve_cfgColstart (s : State) : s.resolve.cfgColstart = s.cfgColstart := rfl
@[simp] theorem resolve_cfgRowstart (s : State) : s.resolve.cfgRowstart = s.cfgRowstart := rfl
@[simp] theorem resolve_cfgMode (s : State) : s.resolve.cfgMode = s.cfgMode := rfl
@[simp] theorem resolve_geomWidth (s : State) : s.resolve.geomWidth = s.resolveGeometry.w := rfl
@[simp] theorem resolve_geomHeight (s : State) : s.resolve.geomHeight = s.resolveGeometry.h := rfl
@[simp] theorem resolve_geomColstart (s : State) : s.resolve.geomColstart = s.resolveGeometry.cs := rfl
@[simp] theorem resolve_geomRowstart (s : State) : s.resolve.geomRowstart = s.resolveGeometry.rs := rfl
@[simp] theorem resolve_pixX (s : State) : s.resolve.pixX = s.pixX := rfl
@[simp] theorem resolve_pixY (s : State) : s.resolve.pixY = s.pixY := rfl
@[simp] theorem resolve_pixColor (s : State) : s.resolve.pixColor = s.pixColor := rfl
@[simp] theorem resolve_pc (s : State) : s.resolve.pc = s.pc := rfl
@[simp] theorem resolve_recLeft (s : State) : s.resolve.recLeft = s.recLeft := rfl
@[simp] theorem resolve_pending (s : State) : s.resolve.pending = s.pending := rfl
@[simp] theorem resolve_fb (s : State) : s.resolve.fb = s.fb := rfl
@[simp] theorem resolve_csN (s : State) : s.resolve.csN = s.csN := rfl
@[simp] theorem resolve_dc (s : State) : s.resolve.dc = s.dc := rfl
@[simp] theorem resolve_rst (s : State) : s.resolve.rst = s.rst := rfl
@[simp] theorem resolve_wireLog (s : State) : s.resolve.wireLog = s.wireLog := rfl
@[simp] theorem resolve_rom (s : State) : s.resolve.rom = s.rom := rfl
@[simp] theorem resolve_par (s : State) : s.resolve.par = s.par := rfl
@[simp] theorem resolve_history (s : State) : s.resolve.history = s.history := rfl
@[simp] theorem resolve_hostProgram (s : State) : s.resolve.hostProgram = s.hostProgram := rfl
@[simp] theorem resolve_agenda (s : State) : s.resolve.agenda = s.agenda := rfl
@[simp] theorem resolve_hostReads (s : State) : s.resolve.hostReads = s.hostReads := rfl

/-! ## `blockReset` -/

@[simp] theorem blockReset_phase (s : State) : s.blockReset.phase = .uninit := rfl
@[simp] theorem blockReset_err (s : State) : s.blockReset.err = 0 := rfl
@[simp] theorem blockReset_cfgWidth (s : State) : s.blockReset.cfgWidth = 0 := rfl
@[simp] theorem blockReset_cfgHeight (s : State) : s.blockReset.cfgHeight = 0 := rfl
@[simp] theorem blockReset_cfgColstart (s : State) : s.blockReset.cfgColstart = 0 := rfl
@[simp] theorem blockReset_cfgRowstart (s : State) : s.blockReset.cfgRowstart = 0 := rfl
@[simp] theorem blockReset_cfgMode (s : State) : s.blockReset.cfgMode = 0 := rfl
@[simp] theorem blockReset_geomWidth (s : State) : s.blockReset.geomWidth = 0 := rfl
@[simp] theorem blockReset_geomHeight (s : State) : s.blockReset.geomHeight = 0 := rfl
@[simp] theorem blockReset_geomColstart (s : State) : s.blockReset.geomColstart = 0 := rfl
@[simp] theorem blockReset_geomRowstart (s : State) : s.blockReset.geomRowstart = 0 := rfl
@[simp] theorem blockReset_pixX (s : State) : s.blockReset.pixX = 0 := rfl
@[simp] theorem blockReset_pixY (s : State) : s.blockReset.pixY = 0 := rfl
@[simp] theorem blockReset_pixColor (s : State) : s.blockReset.pixColor = 0 := rfl
@[simp] theorem blockReset_pc (s : State) : s.blockReset.pc = 0 := rfl
@[simp] theorem blockReset_recLeft (s : State) : s.blockReset.recLeft = 0 := rfl
@[simp] theorem blockReset_pending (s : State) : s.blockReset.pending = [] := rfl
@[simp] theorem blockReset_fb (s : State) : s.blockReset.fb = s.fb.powerOn := rfl
@[simp] theorem blockReset_csN (s : State) : s.blockReset.csN = true := rfl
@[simp] theorem blockReset_dc (s : State) : s.blockReset.dc = false := rfl
@[simp] theorem blockReset_rst (s : State) : s.blockReset.rst = true := rfl
@[simp] theorem blockReset_wireLog (s : State) : s.blockReset.wireLog = [] := rfl
@[simp] theorem blockReset_rom (s : State) : s.blockReset.rom = s.rom := rfl
@[simp] theorem blockReset_par (s : State) : s.blockReset.par = s.par := rfl
@[simp] theorem blockReset_history (s : State) : s.blockReset.history = (s.trace ++ s.closing) :: s.history := rfl
@[simp] theorem blockReset_hostProgram (s : State) : s.blockReset.hostProgram = s.hostProgram := rfl
@[simp] theorem blockReset_agenda (s : State) : s.blockReset.agenda = s.agenda := rfl
@[simp] theorem blockReset_hostReads (s : State) : s.blockReset.hostReads = s.hostReads := rfl

/-! ## Views of the state that an update leaves alone -/

@[simp] theorem emit_fmt8 (s : State) (e : WireEvent) : (s.emit e).fmt8 = s.fmt8 := rfl
@[simp] theorem emit_bgr (s : State) (e : WireEvent) : (s.emit e).bgr = s.bgr := rfl
@[simp] theorem emit_invert (s : State) (e : WireEvent) : (s.emit e).invert = s.invert := rfl
@[simp] theorem emit_mirrorX (s : State) (e : WireEvent) : (s.emit e).mirrorX = s.mirrorX := rfl
@[simp] theorem emit_mirrorY (s : State) (e : WireEvent) : (s.emit e).mirrorY = s.mirrorY := rfl
@[simp] theorem emit_rstPresent (s : State) (e : WireEvent) : (s.emit e).rstPresent = s.rstPresent := rfl
@[simp] theorem emit_bpp (s : State) (e : WireEvent) : (s.emit e).bpp = s.bpp := rfl
@[simp] theorem emit_modeByte (s : State) (e : WireEvent) : (s.emit e).modeByte = s.modeByte := rfl
@[simp] theorem emit_resolveGeometry (s : State) (e : WireEvent) : (s.emit e).resolveGeometry = s.resolveGeometry := rfl
@[simp] theorem emit_geom (s : State) (e : WireEvent) : (s.emit e).geom = s.geom := rfl
@[simp] theorem emit_activeLen (s : State) (e : WireEvent) : (s.emit e).activeLen = s.activeLen := rfl
@[simp] theorem emit_x1 (s : State) (e : WireEvent) : (s.emit e).x1 = s.x1 := rfl
@[simp] theorem emit_x2 (s : State) (e : WireEvent) : (s.emit e).x2 = s.x2 := rfl
@[simp] theorem emit_y1 (s : State) (e : WireEvent) : (s.emit e).y1 = s.y1 := rfl
@[simp] theorem emit_y2 (s : State) (e : WireEvent) : (s.emit e).y2 = s.y2 := rfl
@[simp] theorem emit_pixelX (s : State) (e : WireEvent) : (s.emit e).pixelX = s.pixelX := rfl
@[simp] theorem emit_pixelY (s : State) (e : WireEvent) : (s.emit e).pixelY = s.pixelY := rfl
@[simp] theorem emit_pixelStream (s : State) (e : WireEvent) : (s.emit e).pixelStream = s.pixelStream := rfl
@[simp] theorem emit_status (s : State) (e : WireEvent) : (s.emit e).status = s.status := rfl
@[simp] theorem emit_resetPulse (s : State) (e : WireEvent) : (s.emit e).resetPulse = s.resetPulse := rfl
@[simp] theorem emit_configSteps (s : State) (e : WireEvent) : (s.emit e).configSteps = s.configSteps := rfl
@[simp] theorem emit_setupSteps (s : State) (e : WireEvent) : (s.emit e).setupSteps = s.setupSteps := rfl

@[simp] theorem begin_fmt8 (s : State) (e : WireEvent) (ms : List Micro) : (s.begin e ms).fmt8 = s.fmt8 := rfl
@[simp] theorem begin_bgr (s : State) (e : WireEvent) (ms : List Micro) : (s.begin e ms).bgr = s.bgr := rfl
@[simp] theorem begin_invert (s : State) (e : WireEvent) (ms : List Micro) : (s.begin e ms).invert = s.invert := rfl
@[simp] theorem begin_mirrorX (s : State) (e : WireEvent) (ms : List Micro) : (s.begin e ms).mirrorX = s.mirrorX := rfl
@[simp] theorem begin_mirrorY (s : State) (e : WireEvent) (ms : List Micro) : (s.begin e ms).mirrorY = s.mirrorY := rfl
@[simp] theorem begin_rstPresent (s : State) (e : WireEvent) (ms : List Micro) : (s.begin e ms).rstPresent = s.rstPresent := rfl
@[simp] theorem begin_bpp (s : State) (e : WireEvent) (ms : List Micro) : (s.begin e ms).bpp = s.bpp := rfl
@[simp] theorem begin_modeByte (s : State) (e : WireEvent) (ms : List Micro) : (s.begin e ms).modeByte = s.modeByte := rfl
@[simp] theorem begin_resolveGeometry (s : State) (e : WireEvent) (ms : List Micro) : (s.begin e ms).resolveGeometry = s.resolveGeometry := rfl
@[simp] theorem begin_geom (s : State) (e : WireEvent) (ms : List Micro) : (s.begin e ms).geom = s.geom := rfl
@[simp] theorem begin_activeLen (s : State) (e : WireEvent) (ms : List Micro) : (s.begin e ms).activeLen = s.activeLen := rfl
@[simp] theorem begin_x1 (s : State) (e : WireEvent) (ms : List Micro) : (s.begin e ms).x1 = s.x1 := rfl
@[simp] theorem begin_x2 (s : State) (e : WireEvent) (ms : List Micro) : (s.begin e ms).x2 = s.x2 := rfl
@[simp] theorem begin_y1 (s : State) (e : WireEvent) (ms : List Micro) : (s.begin e ms).y1 = s.y1 := rfl
@[simp] theorem begin_y2 (s : State) (e : WireEvent) (ms : List Micro) : (s.begin e ms).y2 = s.y2 := rfl
@[simp] theorem begin_pixelX (s : State) (e : WireEvent) (ms : List Micro) : (s.begin e ms).pixelX = s.pixelX := rfl
@[simp] theorem begin_pixelY (s : State) (e : WireEvent) (ms : List Micro) : (s.begin e ms).pixelY = s.pixelY := rfl
@[simp] theorem begin_pixelStream (s : State) (e : WireEvent) (ms : List Micro) : (s.begin e ms).pixelStream = s.pixelStream := rfl
@[simp] theorem begin_status (s : State) (e : WireEvent) (ms : List Micro) : (s.begin e ms).status = s.status := rfl
@[simp] theorem begin_resetPulse (s : State) (e : WireEvent) (ms : List Micro) : (s.begin e ms).resetPulse = s.resetPulse := rfl
@[simp] theorem begin_configSteps (s : State) (e : WireEvent) (ms : List Micro) : (s.begin e ms).configSteps = s.configSteps := rfl
@[simp] theorem begin_setupSteps (s : State) (e : WireEvent) (ms : List Micro) : (s.begin e ms).setupSteps = s.setupSteps := rfl

@[simp] theorem startPlayback_fmt8 (s : State) : s.startPlayback.fmt8 = s.fmt8 := rfl
@[simp] theorem startPlayback_bgr (s : State) : s.startPlayback.bgr = s.bgr := rfl
@[simp] theorem startPlayback_invert (s : State) : s.startPlayback.invert = s.invert := rfl
@[simp] theorem startPlayback_mirrorX (s : State) : s.startPlayback.mirrorX = s.mirrorX := rfl
@[simp] theorem startPlayback_mirrorY (s : State) : s.startPlayback.mirrorY = s.mirrorY := rfl
@[simp] theorem startPlayback_rstPresent (s : State) : s.startPlayback.rstPresent = s.rstPresent := rfl
@[simp] theorem startPlayback_bpp (s : State) : s.startPlayback.bpp = s.bpp := rfl
@[simp] theorem startPlayback_modeByte (s : State) : s.startPlayback.modeByte = s.modeByte := rfl
@[simp] theorem startPlayback_resolveGeometry (s : State) : s.startPlayback.resolveGeometry = s.resolveGeometry := rfl
@[simp] theorem startPlayback_geom (s : State) : s.startPlayback.geom = s.geom := rfl
@[simp] theorem startPlayback_activeLen (s : State) : s.startPlayback.activeLen = s.activeLen := rfl
@[simp] theorem startPlayback_x1 (s : State) : s.startPlayback.x1 = s.x1 := rfl
@[simp] theorem startPlayback_x2 (s : State) : s.startPlayback.x2 = s.x2 := rfl
@[simp] theorem startPlayback_y1 (s : State) : s.startPlayback.y1 = s.y1 := rfl
@[simp] theorem startPlayback_y2 (s : State) : s.startPlayback.y2 = s.y2 := rfl
@[simp] theorem startPlayback_pixelX (s : State) : s.startPlayback.pixelX = s.pixelX := rfl
@[simp] theorem startPlayback_pixelY (s : State) : s.startPlayback.pixelY = s.pixelY := rfl
@[simp] theorem startPlayback_pixelStream (s : State) : s.startPlayback.pixelStream = s.pixelStream := rfl
@[simp] theorem startPlayback_resetPulse (s : State) : s.startPlayback.resetPulse = s.resetPulse := rfl
@[simp] theorem startPlayback_configSteps (s : State) : s.startPlayback.configSteps = s.configSteps := rfl
@[simp] theorem startPlayback_setupSteps (s : State) : s.startPlayback.setupSteps = s.setupSteps := rfl

@[simp] theorem returnRead_trace (s : State) (v : Word) : (s.returnRead v).trace = s.trace := rfl
@[simp] theorem returnRead_fmt8 (s : State) (v : Word) : (s.returnRead v).fmt8 = s.fmt8 := rfl
@[simp] theorem returnRead_bgr (s : State) (v : Word) : (s.returnRead v).bgr = s.bgr := rfl
@[simp] theorem returnRead_invert (s : State) (v : Word) : (s.returnRead v).invert = s.invert := rfl
@[simp] theorem returnRead_mirrorX (s : State) (v : Word) : (s.returnRead v).mirrorX = s.mirrorX := rfl
@[simp] theorem returnRead_mirrorY (s : State) (v : Word) : (s.returnRead v).mirrorY = s.mirrorY := rfl
@[simp] theorem returnRead_rstPresent (s : State) (v : Word) : (s.returnRead v).rstPresent = s.rstPresent := rfl
@[simp] theorem returnRead_bpp (s : State) (v : Word) : (s.returnRead v).bpp = s.bpp := rfl
@[simp] theorem returnRead_modeByte (s : State) (v : Word) : (s.returnRead v).modeByte = s.modeByte := rfl
@[simp] theorem returnRead_resolveGeometry (s : State) (v : Word) : (s.returnRead v).resolveGeometry = s.resolveGeometry := rfl
@[simp] theorem returnRead_geom (s : State) (v : Word) : (s.returnRead v).geom = s.geom := rfl
@[simp] theorem returnRead_activeLen (s : State) (v : Word) : (s.returnRead v).activeLen = s.activeLen := rfl
@[simp] theorem returnRead_x1 (s : State) (v : Word) : (s.returnRead v).x1 = s.x1 := rfl
@[simp] theorem returnRead_x2 (s : State) (v : Word) : (s.returnRead v).x2 = s.x2 := rfl
@[simp] theorem returnRead_y1 (s : State) (v : Word) : (s.returnRead v).y1 = s.y1 := rfl
@[simp] theorem returnRead_y2 (s : State) (v : Word) : (s.returnRead v).y2 = s.y2 := rfl
@[simp] theorem returnRead_pixelX (s : State) (v : Word) : (s.returnRead v).pixelX = s.pixelX := rfl
@[simp] theorem returnRead_pixelY (s : State) (v : Word) : (s.returnRead v).pixelY = s.pixelY := rfl
@[simp] theorem returnRead_pixelStream (s : State) (v : Word) : (s.returnRead v).pixelStream = s.pixelStream := rfl
@[simp] theorem returnRead_status (s : State) (v : Word) : (s.returnRead v).status = s.status := rfl
@[simp] theorem returnRead_resetPulse (s : State) (v : Word) : (s.returnRead v).resetPulse = s.resetPulse := rfl
@[simp] theorem returnRead_configSteps (s : State) (v : Word) : (s.returnRead v).configSteps = s.configSteps := rfl
@[simp] theorem returnRead_setupSteps (s : State) (v : Word) : (s.returnRead v).setupSteps = s.setupSteps := rfl

@[simp] theorem raise_trace (s : State) (e : Err) : (s.raise e).trace = s.trace := rfl
@[simp] theorem raise_fmt8 (s : State) (e : Err) : (s.raise e).fmt8 = s.fmt8 := rfl
@[simp] theorem raise_bgr (s : State) (e : Err) : (s.raise e).bgr = s.bgr := rfl
@[simp] theorem raise_invert (s : State) (e : Err) : (s.raise e).invert = s.invert := rfl
@[simp] theorem raise_mirrorX (s : State) (e : Err) : (s.raise e).mirrorX = s.mirrorX := rfl
@[simp] theorem raise_mirrorY (s : State) (e : Err) : (s.raise e).mirrorY = s.mirrorY := rfl
@[simp] theorem raise_rstPresent (s : State) (e : Err) : (s.raise e).rstPresent = s.rstPresent := rfl
@[simp] theorem raise_bpp (s : State) (e : Err) : (s.raise e).bpp = s.bpp := rfl
@[simp] theorem raise_modeByte (s : State) (e : Err) : (s.raise e).modeByte = s.modeByte := rfl
@[simp] theorem raise_resolveGeometry (s : State) (e : Err) : (s.raise e).resolveGeometry = s.resolveGeometry := rfl
@[simp] theorem raise_geom (s : State) (e : Err) : (s.raise e).geom = s.geom := rfl
@[simp] theorem raise_activeLen (s : State) (e : Err) : (s.raise e).activeLen = s.activeLen := rfl
@[simp] theorem raise_x1 (s : State) (e : Err) : (s.raise e).x1 = s.x1 := rfl
@[simp] theorem raise_x2 (s : State) (e : Err) : (s.raise e).x2 = s.x2 := rfl
@[simp] theorem raise_y1 (s : State) (e : Err) : (s.raise e).y1 = s.y1 := rfl
@[simp] theorem raise_y2 (s : State) (e : Err) : (s.raise e).y2 = s.y2 := rfl
@[simp] theorem raise_pixelX (s : State) (e : Err) : (s.raise e).pixelX = s.pixelX := rfl
@[simp] theorem raise_pixelY (s : State) (e : Err) : (s.raise e).pixelY = s.pixelY := rfl
@[simp] theorem raise_pixelStream (s : State) (e : Err) : (s.raise e).pixelStream = s.pixelStream := rfl
@[simp] theorem raise_resetPulse (s : State) (e : Err) : (s.raise e).resetPulse = s.resetPulse := rfl
@[simp] theorem raise_configSteps (s : State) (e : Err) : (s.raise e).configSteps = s.configSteps := rfl
@[simp] theorem raise_setupSteps (s : State) (e : Err) : (s.raise e).setupSteps = s.setupSteps := rfl

@[simp] theorem failSetup_trace (s : State) (e : Err) : (s.failSetup e).trace = s.trace := rfl
@[simp] theorem failSetup_fmt8 (s : State) (e : Err) : (s.failSetup e).fmt8 = s.fmt8 := rfl
@[simp] theorem failSetup_bgr (s : State) (e : Err) : (s.failSetup e).bgr = s.bgr := rfl
@[simp] theorem failSetup_invert (s : State) (e : Err) : (s.failSetup e).invert = s.invert := rfl
@[simp] theorem failSetup_mirrorX (s : State) (e : Err) : (s.failSetup e).mirrorX = s.mirrorX := rfl
@[simp] theorem failSetup_mirrorY (s : State) (e : Err) : (s.failSetup e).mirrorY = s.mirrorY := rfl
@[simp] theorem failSetup_rstPresent (s : State) (e : Err) : (s.failSetup e).rstPresent = s.rstPresent := rfl
@[simp] theorem failSetup_bpp (s : State) (e : Err) : (s.failSetup e).bpp = s.bpp := rfl
@[simp] theorem failSetup_modeByte (s : State) (e : Err) : (s.failSetup e).modeByte = s.modeByte := rfl
@[simp] theorem failSetup_resolveGeometry (s : State) (e : Err) : (s.failSetup e).resolveGeometry = s.resolveGeometry := rfl
@[simp] theorem failSetup_geom (s : State) (e : Err) : (s.failSetup e).geom = s.geom := rfl
@[simp] theorem failSetup_activeLen (s : State) (e : Err) : (s.failSetup e).activeLen = s.activeLen := rfl
@[simp] theorem failSetup_x1 (s : State) (e : Err) : (s.failSetup e).x1 = s.x1 := rfl
@[simp] theorem failSetup_x2 (s : State) (e : Err) : (s.failSetup e).x2 = s.x2 := rfl
@[simp] theorem failSetup_y1 (s : State) (e : Err) : (s.failSetup e).y1 = s.y1 := rfl
@[simp] theorem failSetup_y2 (s : State) (e : Err) : (s.failSetup e).y2 = s.y2 := rfl
@[simp] theorem failSetup_pixelX (s : State) (e : Err) : (s.failSetup e).pixelX = s.pixelX := rfl
@[simp] theorem failSetup_pixelY (s : State) (e : Err) : (s.failSetup e).pixelY = s.pixelY := rfl
@[simp] theorem failSetup_pixelStream (s : State) (e : Err) : (s.failSetup e).pixelStream = s.pixelStream := rfl
@[simp] theorem failSetup_resetPulse (s : State) (e : Err) : (s.failSetup e).resetPulse = s.resetPulse := rfl
@[simp] theorem failSetup_configSteps (s : State) (e : Err) : (s.failSetup e).configSteps = s.configSteps := rfl
@[simp] theorem failSetup_setupSteps (s : State) (e : Err) : (s.failSetup e).setupSteps = s.setupSteps := rfl

@[simp] theorem startUpdate_trace (s : State) : s.startUpdate.trace = s.trace := rfl
@[simp] theorem startUpdate_fmt8 (s : State) : s.startUpdate.fmt8 = s.fmt8 := rfl
@[simp] theorem startUpdate_bgr (s : State) : s.startUpdate.bgr = s.bgr := rfl
@[simp] theorem startUpdate_invert (s : State) : s.startUpdate.invert = s.invert := rfl
@[simp] theorem startUpdate_mirrorX (s : State) : s.startUpdate.mirrorX = s.mirrorX := rfl
@[simp] theorem startUpdate_mirrorY (s : State) : s.startUpdate.mirrorY = s.mirrorY := rfl
@[simp] theorem startUpdate_rstPresent (s : State) : s.startUpdate.rstPresent = s.rstPresent := rfl
@[simp] theorem startUpdate_bpp (s : State) : s.startUpdate.bpp = s.bpp := rfl
@[simp] theorem startUpdate_modeByte (s : State) : s.startUpdate.modeByte = s.modeByte := rfl
@[simp] theorem startUpdate_resolveGeometry (s : State) : s.startUpdate.resolveGeometry = s.resolveGeometry := rfl
@[simp] theorem startUpdate_geom (s : State) : s.startUpdate.geom = s.geom := rfl
@[simp] theorem startUpdate_activeLen (s : State) : s.startUpdate.activeLen = s.activeLen := rfl
@[simp] theorem startUpdate_x1 (s : State) : s.startUpdate.x1 = s.x1 := rfl
@[simp] theorem startUpdate_x2 (s : State) : s.startUpdate.x2 = s.x2 := rfl
@[simp] theorem startUpdate_y1 (s : State) : s.startUpdate.y1 = s.y1 := rfl
@[simp] theorem startUpdate_y2 (s : State) : s.startUpdate.y2 = s.y2 := rfl
@[simp] theorem startUpdate_pixelX (s : State) : s.startUpdate.pixelX = s.pixelX := rfl
@[simp] theorem startUpdate_pixelY (s : State) : s.startUpdate.pixelY = s.pixelY := rfl
@[simp] theorem startUpdate_pixelStream (s : State) : s.startUpdate.pixelStream = s.pixelStream := rfl
@[simp] theorem startUpdate_resetPulse (s : State) : s.startUpdate.resetPulse = s.resetPulse := rfl
@[simp] theorem startUpdate_configSteps (s : State) : s.startUpdate.configSteps = s.configSteps := rfl
@[simp] theorem startUpdate_setupSteps (s : State) : s.startUpdate.setupSteps = s.setupSteps := rfl

@[simp] theorem resolve_trace (s : State) : s.resolve.trace = s.trace := rfl
@[simp] theorem resolve_fmt8 (s : State) : s.resolve.fmt8 = s.fmt8 := rfl
@[simp] theorem resolve_bgr (s : State) : s.resolve.bgr = s.bgr := rfl
@[simp] theorem resolve_invert (s : State) : s.resolve.invert = s.invert := rfl
@[simp] theorem resolve_mirrorX (s : State) : s.resolve.mirrorX = s.mirrorX := rfl
@[simp] theorem resolve_mirrorY (s : State) : s.resolve.mirrorY = s.mirrorY := rfl
@[simp] theorem resolve_rstPresent (s : State) : s.resolve.rstPresent = s.rstPresent := rfl
@[simp] theorem resolve_bpp (s : State) : s.resolve.bpp = s.bpp := rfl
@[simp] theorem resolve_modeByte (s : State) : s.resolve.modeByte = s.modeByte := rfl
@[simp] theorem resolve_resolveGeometry (s : State) : s.resolve.resolveGeometry = s.resolveGeometry := rfl
@[simp] theorem resolve_pixelX (s : State) : s.resolve.pixelX = s.pixelX := rfl
@[simp] theorem resolve_pixelY (s : State) : s.resolve.pixelY = s.pixelY := rfl
@[simp] theorem resolve_resetPulse (s : State) : s.resolve.resetPulse = s.resetPulse := rfl
@[simp] theorem resolve_configSteps (s : State) : s.resolve.configSteps = s.configSteps := rfl
@[simp] theorem resolve_setupSteps (s : State) : s.resolve.setupSteps = s.setupSteps := rfl

@[simp] theorem emit_trace (s : State) (e : WireEvent) : (s.emit e).trace = s.trace ++ [e] := by
  simp [State.trace]

@[simp] theorem begin_trace (s : State) (e : WireEvent) (ms : List Micro) : (s.begin e ms).trace = s.trace ++ [e] := by
  simp [State.trace]

@[simp] theorem resolve_geom (s : State) : s.resolve.geom = s.resolveGeometry := rfl

@[simp] theorem blockReset_trace (s : State) : s.blockReset.trace = [] := rfl

@[simp] theorem blockReset_geom (s : State) : s.blockReset.geom = ⟨0, 0, 0, 0⟩ := rfl

end Sys2Proof.Machine
end

