-- ==== Sys2Proof/Laws/Exec.lean ====
section
/-! SUPPORT. What an executed instruction can do, said once: each arm of exec as its meaning, the acceptance of a command,
SETUP's validation, SET_PIXEL, and the effects of a host access. -/

namespace Sys2Proof.Machine

/-! ## The arms -/

@[simp] theorem exec_setup (g : BitVec 24) (s : State) : exec (.setup g) s = execSetup g s := rfl
@[simp] theorem exec_update (g : BitVec 24) (s : State) : exec (.update g) s = execUpdate g s := rfl
@[simp] theorem exec_setPixel (g : BitVec 24) (s : State) : exec (.setPixel g) s = execSetPixel g s := rfl
@[simp] theorem exec_reservedOp (op : Byte) (g : BitVec 24) (s : State) :
    exec (.reservedOp op g) s = execReservedOp op g s := rfl
@[simp] theorem exec_regCmd (a : Access) (s : State) : exec (.regCmd a) s = execRegCmd a s := rfl
@[simp] theorem exec_regStatus (a : Access) (s : State) : exec (.regStatus a) s = execRegStatus a s := rfl
@[simp] theorem exec_regCfgWidth (a : Access) (s : State) : exec (.regCfgWidth a) s = execRegCfgWidth a s := rfl
@[simp] theorem exec_regCfgHeight (a : Access) (s : State) : exec (.regCfgHeight a) s = execRegCfgHeight a s := rfl
@[simp] theorem exec_regCfgColstart (a : Access) (s : State) : exec (.regCfgColstart a) s = execRegCfgColstart a s := rfl
@[simp] theorem exec_regCfgRowstart (a : Access) (s : State) : exec (.regCfgRowstart a) s = execRegCfgRowstart a s := rfl
@[simp] theorem exec_regCfgMode (a : Access) (s : State) : exec (.regCfgMode a) s = execRegCfgMode a s := rfl
@[simp] theorem exec_regGeomWidth (a : Access) (s : State) : exec (.regGeomWidth a) s = execRegGeomWidth a s := rfl
@[simp] theorem exec_regGeomHeight (a : Access) (s : State) : exec (.regGeomHeight a) s = execRegGeomHeight a s := rfl
@[simp] theorem exec_regGeomColstart (a : Access) (s : State) :
    exec (.regGeomColstart a) s = execRegGeomColstart a s := rfl
@[simp] theorem exec_regGeomRowstart (a : Access) (s : State) :
    exec (.regGeomRowstart a) s = execRegGeomRowstart a s := rfl
@[simp] theorem exec_regPixX (a : Access) (s : State) : exec (.regPixX a) s = execRegPixX a s := rfl
@[simp] theorem exec_regPixY (a : Access) (s : State) : exec (.regPixY a) s = execRegPixY a s := rfl
@[simp] theorem exec_regPixColor (a : Access) (s : State) : exec (.regPixColor a) s = execRegPixColor a s := rfl
@[simp] theorem exec_regReserved38 (a : Access) (s : State) : exec (.regReserved38 a) s = execRegReserved38 a s := rfl
@[simp] theorem exec_regReserved3C (a : Access) (s : State) : exec (.regReserved3C a) s = execRegReserved3C a s := rfl
@[simp] theorem exec_count (n : Byte) (s : State) : exec (.count n) s = execCount n s := rfl
@[simp] theorem exec_recPlain (opc : Byte) (args : List Byte) (s : State) :
    exec (.recPlain opc args) s = execRecPlain opc args s := rfl
@[simp] theorem exec_recD (opc : Byte) (args : List Byte) (d : Byte) (s : State) :
    exec (.recD opc args d) s = execRecD opc args d s := rfl
@[simp] theorem exec_dly500 (s : State) : exec .dly500 s = execDly500 s := rfl
@[simp] theorem exec_dlyMs (d : Byte) (s : State) : exec (.dlyMs d) s = execDlyMs d s := rfl
@[simp] theorem exec_caset (s : State) : exec .caset s = execCaset s := rfl
@[simp] theorem exec_raset (s : State) : exec .raset s = execRaset s := rfl
@[simp] theorem exec_ramwr (s : State) : exec .ramwr s = execRamwr s := rfl
@[simp] theorem exec_madctl (s : State) : exec .madctl s = execMadctl s := rfl
@[simp] theorem exec_invon (s : State) : exec .invon s = execInvon s := rfl

/-! ## Commands -/

/-- The acceptance check lets a command through only to an idle engine in the state its operation asks for (R323). -/
theorem acceptance_eq_none {op : Byte} {s : State} (h : s.acceptance op = none) :
    (op = 0x01 ∧ s.phase = .uninit) ∨ ((op = 0x02 ∨ op = 0x03) ∧ s.phase = .ready) := by
  simp only [State.acceptance] at h
  split at h
  · cases h
  · split at h
    · cases h
    · next hop =>
      split at h
      · cases h
      · next h1 =>
        split at h
        · cases h
        · next h2 =>
          rcases not_not.1 hop with hop | hop
          · exact .inl ⟨hop, by_contra fun hp => h1 ⟨hop, hp⟩⟩
          · exact .inr ⟨hop, by_contra fun hp => h2 ⟨hop, hp⟩⟩

/-- What SETUP once accepted comes to: rejected for its geometry, rejected for its script, or started (R221, R222). -/
theorem startSetup_cases (s : State) :
    (s.geometryValid s.resolveGeometry = false ∧ s.startSetup = s.failSetup .config) ∨
    (s.geometryValid s.resolveGeometry = true ∧ validate s.rom = false ∧ s.startSetup = s.failSetup .script) ∨
    (s.geometryValid s.resolveGeometry = true ∧ validate s.rom = true ∧
      s.startSetup = { s with phase := .resetting, pending := s.setupSteps }) := by
  simp only [State.startSetup]
  split
  · next h => exact .inl ⟨h, rfl⟩
  · next h =>
    have h := Bool.not_eq_false _ |>.mp h
    split
    · next h' => exact .inr (.inl ⟨h, h', rfl⟩)
    · next h' => exact .inr (.inr ⟨h, Bool.not_eq_false _ |>.mp h', rfl⟩)

/-- What SET_PIXEL once accepted can answer with a next state: nothing changed, or FB with one pixel written that lies
within P_BUF_BYTES (R265). -/
theorem drawPixel_next {s t : State} (h : s.drawPixel = .next t) :
    (s.inRange s.pixelX s.pixelY = false ∧ t = s) ∨
    (s.inRange s.pixelX s.pixelY = true ∧ s.pixelOffset s.pixelX s.pixelY + s.bpp ≤ s.par.bufBytes ∧
      t = { s with
        fb :=
          if s.fmt8 then s.fb.write (s.pixelOffset s.pixelX s.pixelY) (q332 s.pixColor)
          else s.fb.write16 (s.pixelOffset s.pixelX s.pixelY) (q565 s.pixColor) }) := by
  simp only [State.drawPixel] at h
  split at h
  · next hr => exact .inl ⟨hr, (Host.Outcome.next.inj h).symm⟩
  · next hr =>
    split at h
    · next hc => exact .inr ⟨Bool.not_eq_false _ |>.mp hr, hc, (Host.Outcome.next.inj h).symm⟩
    · cases h

/-- What SET_PIXEL answers when it faults: an in-range pixel that does not lie within P_BUF_BYTES. -/
theorem drawPixel_fault {s : State} {f : Fault} (h : s.drawPixel = .fault f) :
    s.inRange s.pixelX s.pixelY = true ∧ s.par.bufBytes < s.pixelOffset s.pixelX s.pixelY + s.bpp := by
  simp only [State.drawPixel] at h
  split at h
  · cases h
  · next hr =>
    split at h
    · cases h
    · next hc => exact ⟨Bool.not_eq_false _ |>.mp hr, Nat.lt_of_not_le hc⟩

theorem drawPixel_ne_refused (s : State) (r : Refusal) : s.drawPixel ≠ .refused r := by
  simp only [State.drawPixel]
  split
  · intro h; cases h
  · split <;> intro h <;> cases h

/-! ## Host accesses -/

/-- Everything a host access or a command can do with a next state. -/
inductive HostEffect (s : State) : State → Prop where
  | returned (v : Word) : HostEffect s (s.returnRead v)
  | ignored : HostEffect s s
  | raised (e : Err) : HostEffect s (s.raise e)
  | setup (h : s.phase = .uninit) : HostEffect s s.startSetup
  | update (h : s.phase = .ready) : HostEffect s s.startUpdate
  | pixel (t : State) (h : s.phase = .ready) (ht : s.drawPixel = .next t) : HostEffect s t
  | cfgWidth (h : s.phase = .uninit) (v : Half) : HostEffect s { s with cfgWidth := v }
  | cfgHeight (h : s.phase = .uninit) (v : Half) : HostEffect s { s with cfgHeight := v }
  | cfgColstart (h : s.phase = .uninit) (v : Half) : HostEffect s { s with cfgColstart := v }
  | cfgRowstart (h : s.phase = .uninit) (v : Half) : HostEffect s { s with cfgRowstart := v }
  | cfgMode (h : s.phase = .uninit) (v : BitVec 6) : HostEffect s { s with cfgMode := v }
  | pixX (v : Half) : HostEffect s { s with pixX := v }
  | pixY (v : Half) : HostEffect s { s with pixY := v }
  | pixColor (v : Rgb) : HostEffect s { s with pixColor := v }

/-- The instructions of the HOSTCMD and HOSTREG formats: those that a host access is. -/
def isHostInstr (i : Instr) : Prop := i.format = .hostCmd ∨ i.format = .hostReg

/-- A command answers a host effect, or faults as SET_PIXEL does in READY; it refuses nothing. -/
theorem command_cases (op : Byte) (s : State) :
    (∃ t, s.command op = .next t ∧ HostEffect s t) ∨
    (∃ f, s.command op = .fault f ∧ s.phase = .ready ∧ s.drawPixel = .fault f) := by
  simp only [State.command]
  split
  · next e he => exact .inl ⟨_, rfl, .raised e⟩
  · next hn =>
    rcases acceptance_eq_none hn with ⟨rfl, hp⟩ | ⟨rfl | rfl, hp⟩
    · exact .inl ⟨_, rfl, .setup hp⟩
    · exact .inl ⟨_, rfl, .update hp⟩
    · show (∃ t, s.drawPixel = .next t ∧ HostEffect s t) ∨ (∃ f, s.drawPixel = .fault f ∧ _ ∧ s.drawPixel = .fault f)
      cases hd : s.drawPixel with
      | next t => exact .inl ⟨t, rfl, .pixel t hp hd⟩
      | fault f => exact .inr ⟨f, rfl, hp, rfl⟩
      | refused r => exact absurd hd (drawPixel_ne_refused s r)

theorem readOnlyAccess_next (v : Word) (a : Access) (s : State) :
    ∃ t, readOnlyAccess v a s = .next t ∧ HostEffect s t := by
  cases a with
  | read => exact ⟨_, rfl, .returned v⟩
  | write _ => exact ⟨_, rfl, .ignored⟩

theorem configAccess_next {s : State} {written : Word → State} (v : Word) (a : Access)
    (hw : s.phase = .uninit → ∀ x, HostEffect s (written x)) :
    ∃ t, configAccess v a written s = .next t ∧ HostEffect s t := by
  cases a with
  | read => exact ⟨_, rfl, .returned v⟩
  | write x =>
    simp only [configAccess]
    split
    · next h => exact ⟨_, rfl, hw h x⟩
    · exact ⟨_, rfl, .raised .state⟩

theorem stagingAccess_next {s : State} {written : Word → State} (v : Word) (a : Access)
    (hw : ∀ x, HostEffect s (written x)) : ∃ t, stagingAccess v a written s = .next t ∧ HostEffect s t := by
  cases a with
  | read => exact ⟨_, rfl, .returned v⟩
  | write x => exact ⟨_, rfl, hw x⟩

/-- A SET_PIXEL changes no lifecycle state. -/
theorem drawPixel_phase {s t : State} (h : s.drawPixel = .next t) : t.phase = s.phase := by
  rcases drawPixel_next h with ⟨-, rfl⟩ | ⟨-, -, rfl⟩ <;> rfl

/-- The accesses that change STATE: the write of CMD that starts a SETUP in UNINIT, or an UPDATE in READY (R220, R323). -/
theorem exec_hostReg_phase {i : Instr} (hi : i.format = .hostReg) {s t : State} (h : exec i s = .next t) :
    t.phase = s.phase ∨ ∃ v, i = .regCmd (.write v) ∧
      ((opField v = 0x01 ∧ s.phase = .uninit ∧ t = s.startSetup) ∨
        (opField v = 0x02 ∧ s.phase = .ready ∧ t = s.startUpdate)) := by
  cases i with
  | regCmd a =>
    cases a with
    | read => cases h; exact .inl rfl
    | write v =>
      simp only [exec_regCmd, execRegCmd, State.command] at h
      split at h
      · cases h; exact .inl rfl
      · next hn =>
        rcases acceptance_eq_none hn with ⟨ho, hp⟩ | ⟨ho | ho, hp⟩ <;> rw [ho] at h
        · exact .inr ⟨v, rfl, .inl ⟨ho, hp, (Host.Outcome.next.inj h).symm⟩⟩
        · exact .inr ⟨v, rfl, .inr ⟨ho, hp, (Host.Outcome.next.inj h).symm⟩⟩
        · exact .inl (drawPixel_phase h)
  | regCfgWidth a | regCfgHeight a | regCfgColstart a | regCfgRowstart a | regCfgMode a =>
    left
    cases a with
    | read => cases h; rfl
    | write v => simp only [exec, execRegCfgWidth, execRegCfgHeight, execRegCfgColstart, execRegCfgRowstart,
        execRegCfgMode, configAccess] at h; split at h <;> cases h <;> rfl
  | regStatus a | regGeomWidth a | regGeomHeight a | regGeomColstart a | regGeomRowstart a | regPixX a | regPixY a
  | regPixColor a | regReserved38 a | regReserved3C a => left; cases a <;> cases h <;> rfl
  | setup | update | setPixel | reservedOp | count | recPlain | recD | dly500 | dlyMs | caset | raset | ramwr | madctl
  | invon => cases hi

/-- Executing a host instruction answers a host effect, or faults as SET_PIXEL does in READY; it refuses nothing. -/
theorem exec_host_cases {i : Instr} (hi : isHostInstr i) (s : State) :
    (∃ t, exec i s = .next t ∧ HostEffect s t) ∨
    (∃ f, exec i s = .fault f ∧ s.phase = .ready ∧ s.drawPixel = .fault f) := by
  cases i with
  | setup g => exact command_cases _ s
  | update g => exact command_cases _ s
  | setPixel g => exact command_cases _ s
  | reservedOp op g => exact .inl ⟨_, rfl, .raised _⟩
  | regCmd a =>
    cases a with
    | read => exact .inl ⟨_, rfl, .returned 0⟩
    | write v => exact command_cases _ s
  | regStatus a => exact .inl (readOnlyAccess_next _ a s)
  | regCfgWidth a => exact .inl (configAccess_next _ a fun h x => .cfgWidth h _)
  | regCfgHeight a => exact .inl (configAccess_next _ a fun h x => .cfgHeight h _)
  | regCfgColstart a => exact .inl (configAccess_next _ a fun h x => .cfgColstart h _)
  | regCfgRowstart a => exact .inl (configAccess_next _ a fun h x => .cfgRowstart h _)
  | regCfgMode a => exact .inl (configAccess_next _ a fun h x => .cfgMode h _)
  | regGeomWidth a => exact .inl (readOnlyAccess_next _ a s)
  | regGeomHeight a => exact .inl (readOnlyAccess_next _ a s)
  | regGeomColstart a => exact .inl (readOnlyAccess_next _ a s)
  | regGeomRowstart a => exact .inl (readOnlyAccess_next _ a s)
  | regPixX a => exact .inl (stagingAccess_next _ a fun x => .pixX _)
  | regPixY a => exact .inl (stagingAccess_next _ a fun x => .pixY _)
  | regPixColor a => exact .inl (stagingAccess_next _ a fun x => .pixColor _)
  | regReserved38 a => exact .inl (readOnlyAccess_next _ a s)
  | regReserved3C a => exact .inl (readOnlyAccess_next _ a s)
  | count _ | recPlain _ _ | recD _ _ _ | dly500 | dlyMs _ | caset | raset | ramwr | madctl | invon =>
    rcases hi with h | h <;> cases h

end Sys2Proof.Machine
end

