-- ==== Sys2Proof/Laws/Operands.lean ====
section
/-! SUPPORT. The operand functions: byte halves, bytes per pixel, the window edge, the geometry check, and BUSY in STATUS. -/

namespace Sys2Proof.Machine

/-! ## Byte halves (R13) -/

theorem hi8_append (a b : Byte) : hi8 (a ++ b) = a := by
  unfold hi8
  ext i hi
  simp only [BitVec.getElem_extractLsb']
  erw [BitVec.getLsbD_append]
  simp [hi]

theorem lo8_append (a b : Byte) : lo8 (a ++ b) = b := by
  unfold lo8
  ext i hi
  simp only [BitVec.getElem_extractLsb']
  erw [BitVec.getLsbD_append]
  simp [hi]

/-- A 16-bit value is its two halves, high byte first. -/
theorem hi8_append_lo8 (v : Half) : hi8 v ++ lo8 v = v := by
  apply BitVec.eq_of_getLsbD_eq
  intro n hn
  simp only [hi8, lo8]
  erw [BitVec.getLsbD_append]
  by_cases h : n < 8
  · simp [h]
  · have h8 : n - 8 < 8 := by omega
    simp [h, h8, show 8 + (n - 8) = n by omega]

/-! ## Geometry -/

theorem bpp_pos (s : State) : 0 < s.bpp := by
  unfold State.bpp
  split <;> omega

/-- What the geometry check asks of a geometry (R227, R228). -/
theorem geometryValid_iff (s : State) (g : Geometry) :
    s.geometryValid g = true ↔
      1 ≤ g.w.toNat ∧ 1 ≤ g.h.toNat ∧ g.cs.toNat + g.w.toNat ≤ s.par.physCols ∧
        g.rs.toNat + g.h.toNat ≤ s.par.physRows ∧ g.bytes s.bpp ≤ s.par.bufBytes := by
  simp only [State.geometryValid, Bool.and_eq_true, decide_eq_true_eq, and_assoc]

/-- A window edge that fits 16 bits is exact (R130, R292). -/
theorem windowEnd_toNat {start size : Half} (h1 : 1 ≤ size.toNat) (h2 : start.toNat + size.toNat ≤ 65536) :
    (windowEnd start size).toNat = start.toNat + size.toNat - 1 := by
  simp only [windowEnd, BitVec.toNat_ofInt]
  omega

/-! ## STATUS -/

/-- Bit 3 of STATUS is BUSY (R33). -/
theorem status_bit3 (s : State) : s.status.getLsbD 3 = s.phase.busy := by
  simp only [State.status, State.busyBit]
  erw [BitVec.getLsbD_append]
  erw [BitVec.getLsbD_append]
  cases s.phase <;> rfl

end Sys2Proof.Machine
end

