-- ==== Sys2Proof/Laws/PerInstr.lean ====
section
/-! SUPPORT. Laws of every instruction, one lemma per constructor of Instr. -/

namespace Sys2Proof.Laws

/-- The encoding of an instruction is in the format that the opcode table gives its row. -/
def EncodedFormat.Statement (i : Instr) : Prop := ∀ p : Config.Params, (encode p i).format = i.format

theorem EncodedFormat.setup (g : BitVec 24) : EncodedFormat.Statement (.setup g) := fun _ => rfl
theorem EncodedFormat.update (g : BitVec 24) : EncodedFormat.Statement (.update g) := fun _ => rfl
theorem EncodedFormat.setPixel (g : BitVec 24) : EncodedFormat.Statement (.setPixel g) := fun _ => rfl
theorem EncodedFormat.reservedOp (op : Byte) (g : BitVec 24) : EncodedFormat.Statement (.reservedOp op g) := fun _ => rfl
theorem EncodedFormat.regCmd (a : Access) : EncodedFormat.Statement (.regCmd a) := fun _ => rfl
theorem EncodedFormat.regStatus (a : Access) : EncodedFormat.Statement (.regStatus a) := fun _ => rfl
theorem EncodedFormat.regCfgWidth (a : Access) : EncodedFormat.Statement (.regCfgWidth a) := fun _ => rfl
theorem EncodedFormat.regCfgHeight (a : Access) : EncodedFormat.Statement (.regCfgHeight a) := fun _ => rfl
theorem EncodedFormat.regCfgColstart (a : Access) : EncodedFormat.Statement (.regCfgColstart a) := fun _ => rfl
theorem EncodedFormat.regCfgRowstart (a : Access) : EncodedFormat.Statement (.regCfgRowstart a) := fun _ => rfl
theorem EncodedFormat.regCfgMode (a : Access) : EncodedFormat.Statement (.regCfgMode a) := fun _ => rfl
theorem EncodedFormat.regGeomWidth (a : Access) : EncodedFormat.Statement (.regGeomWidth a) := fun _ => rfl
theorem EncodedFormat.regGeomHeight (a : Access) : EncodedFormat.Statement (.regGeomHeight a) := fun _ => rfl
theorem EncodedFormat.regGeomColstart (a : Access) : EncodedFormat.Statement (.regGeomColstart a) := fun _ => rfl
theorem EncodedFormat.regGeomRowstart (a : Access) : EncodedFormat.Statement (.regGeomRowstart a) := fun _ => rfl
theorem EncodedFormat.regPixX (a : Access) : EncodedFormat.Statement (.regPixX a) := fun _ => rfl
theorem EncodedFormat.regPixY (a : Access) : EncodedFormat.Statement (.regPixY a) := fun _ => rfl
theorem EncodedFormat.regPixColor (a : Access) : EncodedFormat.Statement (.regPixColor a) := fun _ => rfl
theorem EncodedFormat.regReserved38 (a : Access) : EncodedFormat.Statement (.regReserved38 a) := fun _ => rfl
theorem EncodedFormat.regReserved3C (a : Access) : EncodedFormat.Statement (.regReserved3C a) := fun _ => rfl
theorem EncodedFormat.count (n : Byte) : EncodedFormat.Statement (.count n) := fun _ => rfl
theorem EncodedFormat.recPlain (opc : Byte) (args : List Byte) : EncodedFormat.Statement (.recPlain opc args) := fun _ => rfl
theorem EncodedFormat.recD (opc : Byte) (args : List Byte) (dly : Byte) : EncodedFormat.Statement (.recD opc args dly) := fun _ => rfl
theorem EncodedFormat.dly500 : EncodedFormat.Statement .dly500 := fun _ => rfl
theorem EncodedFormat.dlyMs (d : Byte) : EncodedFormat.Statement (.dlyMs d) := fun _ => rfl
theorem EncodedFormat.caset : EncodedFormat.Statement .caset := fun _ => rfl
theorem EncodedFormat.raset : EncodedFormat.Statement .raset := fun _ => rfl
theorem EncodedFormat.ramwr : EncodedFormat.Statement .ramwr := fun _ => rfl
theorem EncodedFormat.madctl : EncodedFormat.Statement .madctl := fun _ => rfl
theorem EncodedFormat.invon : EncodedFormat.Statement .invon := fun _ => rfl

end Sys2Proof.Laws
end

