-- ==== Sys2Proof/Laws/Step.lean ====
section
/-! SUPPORT. What one step can do, said once: by whose turn it is, and for the sequencer by the head of `s.pending`. -/

namespace Sys2Proof.Machine

/-! ## Decoded host accesses -/

/-- A host access that decodes is an instruction of the HOSTREG format. -/
theorem decodeHostReg_format {a : HostAccess} {i : Instr} (h : decodeHostReg a = .ok i) : i.format = .hostReg := by
  unfold decodeHostReg at h
  split at h
  · cases h
  · cases h
  · split at h <;> first | (cases h; rfl) | cases h

theorem decodeHostReg_isHostInstr {a : HostAccess} {i : Instr} (h : decodeHostReg a = .ok i) : isHostInstr i :=
  .inr (decodeHostReg_format h)

/-- A host access decodes exactly when it is 32 bits wide and at a multiple of 4. -/
theorem decodeHostReg_ok_iff (a : HostAccess) :
    (∃ i, decodeHostReg a = .ok i) ↔ a.width = .bits32 ∧ a.offset.toNat % 4 = 0 := by
  obtain ⟨dir, offset, data, width⟩ := a
  cases width
  · simp [decodeHostReg]
  · simp [decodeHostReg]
  · simp only [decodeHostReg, true_and]
    have h64 : ∀ o : BitVec 6, o.toNat % 4 = 0 ↔
        o.toNat ∈ [0x00, 0x04, 0x08, 0x0C, 0x10, 0x14, 0x18, 0x1C, 0x20, 0x24, 0x28, 0x2C, 0x30, 0x34, 0x38, 0x3C] := by
      decide
    rw [h64]
    split <;> simp_all

/-- The one access that decodes to a write of CMD: 32 bits at offset 0x00 (R31, R32). -/
theorem decodeHostReg_write_cmd {a : HostAccess} {v : Word} (h : decodeHostReg a = .ok (.regCmd (.write v))) :
    a = wr 0x00 v := by
  obtain ⟨dir, offset, data, width⟩ := a
  unfold decodeHostReg at h
  split at h
  · cases h
  · cases h
  · next hw =>
    obtain rfl : width = .bits32 := hw
    split at h
    case h_1 ho =>
      obtain rfl : offset = 0 := BitVec.eq_of_toNat_eq ho
      cases dir <;> cases h
      rfl
    all_goals cases h

/-- Why a host access is refused: its width first, then its offset (R82). -/
theorem decodeHostReg_error {a : HostAccess} {e : DecodeError} (h : decodeHostReg a = .error e) :
    (a.width ≠ .bits32 ∧ e = .subword) ∨ (a.width = .bits32 ∧ a.offset.toNat % 4 ≠ 0 ∧ e = .misaligned) := by
  by_cases hw : a.width = .bits32
  · refine .inr ⟨hw, fun h4 => ?_, ?_⟩
    · obtain ⟨i, hi⟩ := (decodeHostReg_ok_iff a).2 ⟨hw, h4⟩
      rw [h] at hi; cases hi
    · unfold decodeHostReg at h
      rw [hw] at h
      simp only at h
      split at h <;> first | (cases h; rfl) | cases h
  · refine .inl ⟨hw, ?_⟩
    unfold decodeHostReg at h
    split at h
    · cases h; rfl
    · cases h; rfl
    · contradiction

/-! ## The sequencer's turn -/

/-- What a record has still to do after its SEL (R183, R184). -/
def recordRest (r : Record) : List Micro :=
  .emit (.cmd r.opcode) :: (dataMicros r.args ++
    (.emit .desel :: (r.delay.toList.map .delay ++ [.advance (2 + r.args.length + r.delay.toList.length)])))

theorem exec_record (r : Record) (s : State) : exec r.instr s = .next (s.begin .sel (recordRest r)) := by
  obtain ⟨opc, args, _ | d⟩ := r
  · rfl
  · simp [Record.instr, execRecD, recordRest, Nat.add_right_comm]

theorem exec_decodeDelay (d : Byte) (s : State) : exec (decodeDelay d) s = .next (s.emit (.wait (delayMs d))) := by
  unfold decodeDelay
  split
  · next h => rw [h]; rfl
  · rfl

/-- Everything a sequencer's turn can do with a next state, by the head of `s.pending`. -/
inductive SequencerEffect (s : State) : State → Prop where
  | idle (h : s.pending = []) : SequencerEffect s s
  | emit (e : WireEvent) (ms : List Micro) (h : s.pending = .emit e :: ms) :
      SequencerEffect s ({ s with pending := ms }.emit e)
  | enter (ph : Phase) (ms : List Micro) (h : s.pending = .enter ph :: ms) :
      SequencerEffect s { s with pending := ms, phase := ph }
  | count (n : Byte) (bs : List Byte) (ms : List Micro) (h : s.pending = .playCount :: ms) (hr : s.rom = n :: bs) :
      SequencerEffect s { s with pending := ms, phase := .playingInit, recLeft := n, pc := 1 }
  | loopEnd (ms : List Micro) (h : s.pending = .playNext :: ms) (hl : s.recLeft = 0) :
      SequencerEffect s { s.resolve with pending := ms }
  | record (r : Record) (bs : List Byte) (ms : List Micro) (h : s.pending = .playNext :: ms) (hl : s.recLeft ≠ 0)
      (hd : decodeRecord (s.rom.drop s.pc.toNat) = .ok (r, bs)) :
      SequencerEffect s ({ s with pending := .recordDone :: .playNext :: ms }.begin .sel (recordRest r))
  | delay (d : Byte) (ms : List Micro) (h : s.pending = .delay d :: ms) :
      SequencerEffect s ({ s with pending := ms }.emit (.wait (delayMs d)))
  | advance (n : Nat) (ms : List Micro) (h : s.pending = .advance n :: ms) :
      SequencerEffect s { s with pending := ms, pc := s.pc + BitVec.ofNat 16 n }
  | recordDone (ms : List Micro) (h : s.pending = .recordDone :: ms) :
      SequencerEffect s { s with pending := ms, recLeft := s.recLeft - 1 }
  | caset (ms : List Micro) (h : s.pending = .frame .caset :: ms) :
      SequencerEffect s ({ s with pending := ms }.begin (.cmd s.par.cmdCaset) (dataMicros (waddr s.x1 s.x2)))
  | raset (ms : List Micro) (h : s.pending = .frame .raset :: ms) :
      SequencerEffect s ({ s with pending := ms }.begin (.cmd s.par.cmdRaset) (dataMicros (waddr s.y1 s.y2)))
  | ramwr (ms : List Micro) (h : s.pending = .frame .ramwr :: ms) (hc : s.activeLen ≤ s.par.bufBytes) :
      SequencerEffect s ({ s with pending := ms }.begin (.cmd s.par.cmdRamwr) (dataMicros s.pixelStream))
  | madctl (ms : List Micro) (h : s.pending = .frame .madctl :: ms) :
      SequencerEffect s ({ s with pending := ms }.begin .sel
        [.emit (.cmd s.par.cmdMadctl), .emit (.dat s.modeByte), .emit .desel])
  | invon (ms : List Micro) (h : s.pending = .frame .invon :: ms) :
      SequencerEffect s ({ s with pending := ms }.begin .sel [.emit (.cmd s.par.cmdInvon), .emit .desel])
  | clear (ms : List Micro) (h : s.pending = .clearFb :: ms)
      (hc : s.resolveGeometry.bytes s.bpp ≤ s.par.bufBytes) :
      SequencerEffect s { s with pending := ms, fb := s.fb.clear (s.resolveGeometry.bytes s.bpp) }

/-- The stops of a sequencer's turn: a script read at or beyond P_SCRIPT_LEN, or an FB access at or beyond P_BUF_BYTES. -/
def SequencerStops (s : State) (f : Fault) : Prop :=
  (f = .romOutOfRange ∧ ∃ ms, (s.pending = .playCount :: ms ∧ s.rom = []) ∨
    (s.pending = .playNext :: ms ∧ s.recLeft ≠ 0 ∧ ∃ e, decodeRecord (s.rom.drop s.pc.toNat) = .error e)) ∨
  (f = .fbOutOfRange ∧ ∃ ms, (s.pending = .frame .ramwr :: ms ∧ s.par.bufBytes < s.activeLen) ∨
    (s.pending = .clearFb :: ms ∧ s.par.bufBytes < s.resolveGeometry.bytes s.bpp))

/-- What `step` does with what it fetched. -/
def runFetched : Fetched → Host.Outcome State Fault Refusal
  | .run i s => exec i s
  | .done s => .next s
  | .fault f => .fault f
  | .refuse r => .refused r

theorem step_eq (s : State) : step s = runFetched s.fetch := by
  unfold step runFetched
  cases s.fetch <;> rfl

/-- A sequencer's turn answers a sequencer effect or one of its stops; it refuses nothing. -/
theorem sequencer_cases (s : State) :
    (∃ t, runFetched s.fetchSequencer = .next t ∧ SequencerEffect s t) ∨
    (∃ f, runFetched s.fetchSequencer = .fault f ∧ SequencerStops s f) := by
  rcases hp : s.pending with _ | ⟨m, ms⟩
  · exact .inl ⟨s, by simp [State.fetchSequencer, hp, runFetched], .idle hp⟩
  · cases m with
    | emit e => exact .inl ⟨_, by simp only [State.fetchSequencer, hp, runFetched], .emit e ms hp⟩
    | enter ph => exact .inl ⟨_, by simp only [State.fetchSequencer, hp, runFetched], .enter ph ms hp⟩
    | playCount =>
      rcases hr : s.rom with _ | ⟨n, bs⟩
      · exact .inr ⟨.romOutOfRange, by simp only [State.fetchSequencer, hp, hr, runFetched],
          .inl ⟨rfl, ms, .inl ⟨hp, hr⟩⟩⟩
      · exact .inl ⟨_, by simp only [State.fetchSequencer, hp, hr, runFetched, decodeCount, exec_count, execCount]; rfl,
          .count n bs ms hp hr⟩
    | playNext =>
      by_cases hl : s.recLeft = 0
      · exact .inl ⟨_, by simp only [State.fetchSequencer, hp, runFetched, if_pos hl], .loopEnd ms hp hl⟩
      · cases hd : decodeRecord (s.rom.drop s.pc.toNat) with
        | error e =>
          exact .inr ⟨.romOutOfRange, by simp only [State.fetchSequencer, hp, runFetched, if_neg hl, hd],
            .inl ⟨rfl, ms, .inr ⟨hp, hl, e, hd⟩⟩⟩
        | ok p =>
          obtain ⟨r, bs⟩ := p
          exact .inl ⟨_, by simp only [State.fetchSequencer, hp, runFetched, if_neg hl, hd, exec_record],
            .record r bs ms hp hl hd⟩
    | delay d =>
      exact .inl ⟨_, by simp only [State.fetchSequencer, hp, runFetched, exec_decodeDelay], .delay d ms hp⟩
    | advance n => exact .inl ⟨_, by simp only [State.fetchSequencer, hp, runFetched], .advance n ms hp⟩
    | recordDone => exact .inl ⟨_, by simp only [State.fetchSequencer, hp, runFetched], .recordDone ms hp⟩
    | frame f =>
      cases f with
      | caset => exact .inl ⟨_, by simp only [State.fetchSequencer, hp, runFetched]; rfl, .caset ms hp⟩
      | raset => exact .inl ⟨_, by simp only [State.fetchSequencer, hp, runFetched]; rfl, .raset ms hp⟩
      | ramwr =>
        by_cases hc : s.activeLen ≤ s.par.bufBytes
        · exact .inl ⟨_, by simp only [State.fetchSequencer, hp, runFetched]; exact if_pos hc, .ramwr ms hp hc⟩
        · exact .inr ⟨.fbOutOfRange, by simp only [State.fetchSequencer, hp, runFetched]; exact if_neg hc,
            .inr ⟨rfl, ms, .inl ⟨hp, Nat.lt_of_not_le hc⟩⟩⟩
      | madctl => exact .inl ⟨_, by simp only [State.fetchSequencer, hp, runFetched]; rfl, .madctl ms hp⟩
      | invon => exact .inl ⟨_, by simp only [State.fetchSequencer, hp, runFetched]; rfl, .invon ms hp⟩
    | clearFb =>
      by_cases hc : s.resolveGeometry.bytes s.bpp ≤ s.par.bufBytes
      · exact .inl ⟨_, by simp only [State.fetchSequencer, hp, runFetched, if_pos hc], .clear ms hp hc⟩
      · exact .inr ⟨.fbOutOfRange, by simp only [State.fetchSequencer, hp, runFetched, if_neg hc],
          .inr ⟨rfl, ms, .inr ⟨hp, Nat.lt_of_not_le hc⟩⟩⟩

/-! ## One step, by whose turn it is -/

/-- The host's turn answers a host effect with its program kept or its first item consumed, or faults as SET_PIXEL does
in READY, or refuses a meaningless access. -/
theorem host_cases (s : State) :
    (∃ t ps, runFetched s.fetchHost = .next t ∧ (ps = s.hostProgram ∨ ps = s.hostProgram.tail) ∧
      HostEffect { s with hostProgram := ps } t) ∨
    (∃ f, runFetched s.fetchHost = .fault f ∧ s.phase = .ready ∧ s.inRange s.pixelX s.pixelY = true ∧
      s.par.bufBytes < s.pixelOffset s.pixelX s.pixelY + s.bpp) ∨
    (∃ r, runFetched s.fetchHost = .refused r) := by
  rcases hp : s.hostProgram with _ | ⟨op, rest⟩
  · refine .inl ⟨s, s.hostProgram, by simp [State.fetchHost, hp, runFetched], .inl hp, ?_⟩
    exact .ignored
  · cases op with
    | access a =>
      cases hd : decodeHostReg a with
      | error e => exact .inr (.inr ⟨refusalOf e, by simp only [State.fetchHost, hp, hd, runFetched]⟩)
      | ok i =>
        have hrun : runFetched s.fetchHost = exec i { s with hostProgram := rest } := by
          simp only [State.fetchHost, hp, hd, runFetched]
        rcases exec_host_cases (decodeHostReg_isHostInstr hd) { s with hostProgram := rest } with
          ⟨t, ht, he⟩ | ⟨f, hf, hr, hdp⟩
        · exact .inl ⟨t, rest, hrun.trans ht, .inr rfl, he⟩
        · exact .inr (.inl ⟨f, hrun.trans hf, hr, drawPixel_fault (s := { s with hostProgram := rest }) hdp⟩)
    | waitIdle =>
      refine .inl ?_
      by_cases hb : s.status.getLsbD 3 = true
      · refine ⟨s.returnRead s.status, s.hostProgram, ?_, .inl hp, .returned _⟩
        simp only [State.fetchHost, hp, runFetched, if_pos hb]
        rfl
      · refine ⟨({ s with hostProgram := rest } : State).returnRead s.status, rest, ?_, .inr rfl, ?_⟩
        · simp only [State.fetchHost, hp, runFetched, if_neg hb]
          rfl
        · exact HostEffect.returned (s := { s with hostProgram := rest }) _

/-- Everything a step can do with a next state. -/
theorem step_cases {s t : State} (h : step s = .next t) :
    (s.agenda = [] ∧ t = s) ∨
    (∃ ts, s.agenda = .stall :: ts ∧ t = { s with agenda := ts }) ∨
    (∃ ts, s.agenda = .blockReset :: ts ∧ t = ({ s with agenda := ts } : State).blockReset) ∨
    (∃ ts ps, s.agenda = .host :: ts ∧ (ps = s.hostProgram ∨ ps = s.hostProgram.tail) ∧
      HostEffect { s with agenda := ts, hostProgram := ps } t) ∨
    (∃ ts, s.agenda = .sequencer :: ts ∧ SequencerEffect { s with agenda := ts } t) := by
  rw [step_eq] at h
  rcases ha : s.agenda with _ | ⟨turn, ts⟩
  · simp only [State.fetch, ha, runFetched] at h
    exact .inl ⟨rfl, (Host.Outcome.next.inj h).symm⟩
  · cases turn with
    | host =>
      simp only [State.fetch, ha] at h
      rcases host_cases { s with agenda := ts } with ⟨t', ps, ht, hps, he⟩ | ⟨f, hf, -⟩ | ⟨r, hr⟩
      · rw [h] at ht
        cases ht
        exact .inr (.inr (.inr (.inl ⟨ts, ps, rfl, hps, he⟩)))
      · rw [h] at hf; cases hf
      · rw [h] at hr; cases hr
    | sequencer =>
      simp only [State.fetch, ha] at h
      rcases sequencer_cases { s with agenda := ts } with ⟨t', ht, he⟩ | ⟨f, hf, -⟩
      · rw [h] at ht
        cases ht
        exact .inr (.inr (.inr (.inr ⟨ts, rfl, he⟩)))
      · rw [h] at hf; cases hf
    | stall =>
      simp only [State.fetch, ha, runFetched] at h
      exact .inr (.inl ⟨ts, rfl, (Host.Outcome.next.inj h).symm⟩)
    | blockReset =>
      simp only [State.fetch, ha, runFetched] at h
      exact .inr (.inr (.inl ⟨ts, rfl, (Host.Outcome.next.inj h).symm⟩))

/-- When a step faults: a sequencer's stop, or a SET_PIXEL in READY of a pixel beyond P_BUF_BYTES. -/
theorem step_fault {s : State} {f : Fault} (h : step s = .fault f) :
    (∃ ts, s.agenda = .sequencer :: ts ∧ SequencerStops { s with agenda := ts } f) ∨
    (∃ ts, s.agenda = .host :: ts ∧ s.phase = .ready ∧ s.inRange s.pixelX s.pixelY = true ∧
      s.par.bufBytes < s.pixelOffset s.pixelX s.pixelY + s.bpp) := by
  rw [step_eq] at h
  rcases ha : s.agenda with _ | ⟨turn, ts⟩
  · simp [State.fetch, ha, runFetched] at h
  · cases turn with
    | host =>
      simp only [State.fetch, ha] at h
      rcases host_cases { s with agenda := ts } with ⟨t', ps, ht, -⟩ | ⟨f', hf, hr, hd⟩ | ⟨r, hr⟩
      · rw [h] at ht; cases ht
      · exact .inr ⟨ts, rfl, hr, hd⟩
      · rw [h] at hr; cases hr
    | sequencer =>
      simp only [State.fetch, ha] at h
      rcases sequencer_cases { s with agenda := ts } with ⟨t', ht, -⟩ | ⟨f', hf, hs⟩
      · rw [h] at ht; cases ht
      · rw [h] at hf
        cases hf
        exact .inl ⟨ts, rfl, hs⟩
    | stall => simp [State.fetch, ha, runFetched] at h
    | blockReset => simp [State.fetch, ha, runFetched] at h

end Sys2Proof.Machine
end

