-- ==== Sys2Proof/Laws/Run.lean ====
section
/-! SUPPORT. Runs of the sequencer: one step of a run for each effect of a sequencer's turn, and whole runs of wire events. -/

namespace Sys2Proof.Machine

/-! ## The line levels after each event (R151 to R157, R162) -/

@[simp] theorem csAfter_sel (c : Bool) : WireEvent.sel.csAfter c = false := rfl
@[simp] theorem csAfter_desel (c : Bool) : WireEvent.desel.csAfter c = true := rfl
@[simp] theorem csAfter_cmd (b : Byte) (c : Bool) : (WireEvent.cmd b).csAfter c = c := rfl
@[simp] theorem csAfter_dat (b : Byte) (c : Bool) : (WireEvent.dat b).csAfter c = c := rfl
@[simp] theorem csAfter_rst (l : Bool) (c : Bool) : (WireEvent.rst l).csAfter c = c := rfl
@[simp] theorem csAfter_wait (ms : Nat) (c : Bool) : (WireEvent.wait ms).csAfter c = c := rfl
@[simp] theorem dcAfter_sel (p : Config.Params) (d : Bool) : WireEvent.sel.dcAfter p d = d := rfl
@[simp] theorem dcAfter_desel (p : Config.Params) (d : Bool) : WireEvent.desel.dcAfter p d = d := rfl
@[simp] theorem dcAfter_cmd (b : Byte) (p : Config.Params) (d : Bool) : (WireEvent.cmd b).dcAfter p d = p.dcCmdLevel := rfl
@[simp] theorem dcAfter_dat (b : Byte) (p : Config.Params) (d : Bool) : (WireEvent.dat b).dcAfter p d = (!p.dcCmdLevel) := rfl
@[simp] theorem dcAfter_rst (l : Bool) (p : Config.Params) (d : Bool) : (WireEvent.rst l).dcAfter p d = d := rfl
@[simp] theorem dcAfter_wait (ms : Nat) (p : Config.Params) (d : Bool) : (WireEvent.wait ms).dcAfter p d = d := rfl
@[simp] theorem rstAfter_sel (r : Bool) : WireEvent.sel.rstAfter r = r := rfl
@[simp] theorem rstAfter_desel (r : Bool) : WireEvent.desel.rstAfter r = r := rfl
@[simp] theorem rstAfter_cmd (b : Byte) (r : Bool) : (WireEvent.cmd b).rstAfter r = r := rfl
@[simp] theorem rstAfter_dat (b : Byte) (r : Bool) : (WireEvent.dat b).rstAfter r = r := rfl
@[simp] theorem rstAfter_rst (l : Bool) (r : Bool) : (WireEvent.rst l).rstAfter r = l := rfl
@[simp] theorem rstAfter_wait (ms : Nat) (r : Bool) : (WireEvent.wait ms).rstAfter r = r := rfl

theorem dataMicros_eq (bs : List Byte) : dataMicros bs = (bs.map WireEvent.dat).map Micro.emit := by simp [dataMicros]

@[simp] theorem csAfter_dats (bs : List Byte) (c : Bool) :
    (bs.map WireEvent.dat).foldl (fun c e => e.csAfter c) c = c := by
  induction bs with
  | nil => rfl
  | cons b bs ih => simpa using ih

@[simp] theorem rstAfter_dats (bs : List Byte) (r : Bool) :
    (bs.map WireEvent.dat).foldl (fun r e => e.rstAfter r) r = r := by
  induction bs with
  | nil => rfl
  | cons b bs ih => simpa using ih

/-- The level of DC after a run of data bytes: the data level, if there is one. -/
@[simp] theorem dcAfter_dats (p : Config.Params) (bs : List Byte) (d : Bool) :
    (bs.map WireEvent.dat).foldl (fun d e => e.dcAfter p d) d = if bs = [] then d else !p.dcCmdLevel := by
  induction bs generalizing d with
  | nil => rfl
  | cons b bs ih => simp only [List.map_cons, List.foldl_cons, ih, dcAfter_dat, reduceCtorEq, if_false, ite_self]

/-! ## The bytes of events (R153, R154) -/

@[simp] theorem commandByte_sel : WireEvent.sel.commandByte = none := rfl
@[simp] theorem commandByte_desel : WireEvent.desel.commandByte = none := rfl
@[simp] theorem commandByte_cmd (b : Byte) : (WireEvent.cmd b).commandByte = some b := rfl
@[simp] theorem commandByte_dat (b : Byte) : (WireEvent.dat b).commandByte = none := rfl
@[simp] theorem commandByte_rst (l : Bool) : (WireEvent.rst l).commandByte = none := rfl
@[simp] theorem commandByte_wait (ms : Nat) : (WireEvent.wait ms).commandByte = none := rfl
@[simp] theorem dataByte_sel : WireEvent.sel.dataByte = none := rfl
@[simp] theorem dataByte_desel : WireEvent.desel.dataByte = none := rfl
@[simp] theorem dataByte_cmd (b : Byte) : (WireEvent.cmd b).dataByte = none := rfl
@[simp] theorem dataByte_dat (b : Byte) : (WireEvent.dat b).dataByte = some b := rfl
@[simp] theorem dataByte_rst (l : Bool) : (WireEvent.rst l).dataByte = none := rfl
@[simp] theorem dataByte_wait (ms : Nat) : (WireEvent.wait ms).dataByte = none := rfl

@[simp] theorem commandByte_comp_dat : WireEvent.commandByte ∘ WireEvent.dat = fun _ => none := rfl
@[simp] theorem dataByte_comp_dat : WireEvent.dataByte ∘ WireEvent.dat = some := rfl

/-! ## Steps of a run -/

/-- An effect of a sequencer's turn is what the turn answers. -/
theorem SequencerEffect.next {s t : State} (h : SequencerEffect s t) : runFetched s.fetchSequencer = .next t := by
  cases h with
  | idle hp => simp only [State.fetchSequencer, hp, runFetched]
  | emit e ms hp => simp only [State.fetchSequencer, hp, runFetched]
  | enter ph ms hp => simp only [State.fetchSequencer, hp, runFetched]
  | count n bs ms hp hr =>
    simp only [State.fetchSequencer, hp, hr, runFetched, decodeCount, exec_count, execCount]; rfl
  | loopEnd ms hp hl => simp only [State.fetchSequencer, hp, runFetched, if_pos hl]
  | record r bs ms hp hl hd => simp only [State.fetchSequencer, hp, runFetched, if_neg hl, hd, exec_record]
  | delay d ms hp => simp only [State.fetchSequencer, hp, runFetched, exec_decodeDelay]
  | advance n ms hp => simp only [State.fetchSequencer, hp, runFetched]
  | recordDone ms hp => simp only [State.fetchSequencer, hp, runFetched]
  | caset ms hp => simp only [State.fetchSequencer, hp, runFetched]; rfl
  | raset ms hp => simp only [State.fetchSequencer, hp, runFetched]; rfl
  | ramwr ms hp hc => simp only [State.fetchSequencer, hp, runFetched]; exact if_pos hc
  | madctl ms hp => simp only [State.fetchSequencer, hp, runFetched]; rfl
  | invon ms hp => simp only [State.fetchSequencer, hp, runFetched]; rfl
  | clear ms hp hc => simp only [State.fetchSequencer, hp, runFetched, if_pos hc]

/-- A sequencer's turn neither reads nor writes the agenda. -/
theorem SequencerEffect.withAgenda {s t : State} (h : SequencerEffect s t) (ts : List Turn) :
    SequencerEffect { s with agenda := ts } { t with agenda := ts } := by
  cases h with
  | idle hp => exact .idle hp
  | emit e ms hp => exact .emit (s := { s with agenda := ts }) e ms hp
  | enter ph ms hp => exact .enter (s := { s with agenda := ts }) ph ms hp
  | count n bs ms hp hr => exact .count (s := { s with agenda := ts }) n bs ms hp hr
  | loopEnd ms hp hl => exact .loopEnd (s := { s with agenda := ts }) ms hp hl
  | record r bs ms hp hl hd => exact .record (s := { s with agenda := ts }) r bs ms hp hl hd
  | delay d ms hp => exact .delay (s := { s with agenda := ts }) d ms hp
  | advance n ms hp => exact .advance (s := { s with agenda := ts }) n ms hp
  | recordDone ms hp => exact .recordDone (s := { s with agenda := ts }) ms hp
  | caset ms hp => exact .caset (s := { s with agenda := ts }) ms hp
  | raset ms hp => exact .raset (s := { s with agenda := ts }) ms hp
  | ramwr ms hp hc => exact .ramwr (s := { s with agenda := ts }) ms hp hc
  | madctl ms hp => exact .madctl (s := { s with agenda := ts }) ms hp
  | invon ms hp => exact .invon (s := { s with agenda := ts }) ms hp
  | clear ms hp hc => exact .clear (s := { s with agenda := ts }) ms hp hc

/-- A run of no steps. -/
theorem runSequencer_zero (s : State) : s.runSequencer 0 = .next { s with agenda := [] } := rfl

/-- One step of a run. -/
theorem runSequencer_succ {s t : State} (h : SequencerEffect s t) (n : Nat) :
    s.runSequencer (n + 1) = t.runSequencer n := by
  have hs : step { s with agenda := List.replicate (n + 1) .sequencer } =
      .next { t with agenda := List.replicate n .sequencer } := by
    rw [step_eq]
    exact (h.withAgenda (List.replicate n .sequencer)).next
  unfold State.runSequencer
  simp only [Host.Core.run]
  split
  · next s' he => rw [Host.Outcome.next.inj (he.symm.trans hs)]
  · next f hf => cases hf.symm.trans hs
  · next r hr => cases hr.symm.trans hs

/-- A run of steps that emit wire events: the events go to the trace in order and the line levels follow them. -/
theorem runSequencer_emits (es : List WireEvent) (s : State) (ms : List Micro) (n : Nat)
    (h : s.pending = es.map .emit ++ ms) :
    s.runSequencer (es.length + n) =
      ({ s with
        pending := ms
        csN := es.foldl (fun c e => e.csAfter c) s.csN
        dc := es.foldl (fun d e => e.dcAfter s.par d) s.dc
        rst := es.foldl (fun r e => e.rstAfter r) s.rst
        wireLog := es.reverse ++ s.wireLog } : State).runSequencer n := by
  induction es generalizing s with
  | nil =>
    have h : s.pending = ms := h
    subst h
    simp
  | cons e es ih =>
    rw [List.length_cons, Nat.add_right_comm, runSequencer_succ (.emit e _ h), ih _ rfl]
    simp [State.emit]

/-! ## Runs composed -/

/-- `k` steps of a run take one state to another, whatever steps follow. -/
def RunsIn (k : Nat) (s t : State) : Prop := ∀ m, s.runSequencer (k + m) = t.runSequencer m

theorem RunsIn.trans {k j : Nat} {s t u : State} (h : RunsIn k s t) (h' : RunsIn j t u) : RunsIn (k + j) s u :=
  fun m => by rw [Nat.add_assoc, h, h']

theorem RunsIn.one {s t : State} (h : SequencerEffect s t) : RunsIn 1 s t :=
  fun m => by rw [Nat.add_comm, runSequencer_succ h]

theorem RunsIn.run {k : Nat} {s t : State} (h : RunsIn k s t) : s.runSequencer k = .next { t with agenda := [] } :=
  (h 0).trans (runSequencer_zero t)

/-- A run of wire events, with the state it leads to given as any state equal to it. -/
theorem RunsIn.emits {s t : State} (es : List WireEvent) (ms : List Micro) (h : s.pending = es.map .emit ++ ms)
    (ht : t = { s with
      pending := ms
      csN := es.foldl (fun c e => e.csAfter c) s.csN
      dc := es.foldl (fun d e => e.dcAfter s.par d) s.dc
      rst := es.foldl (fun r e => e.rstAfter r) s.rst
      wireLog := es.reverse ++ s.wireLog }) : RunsIn es.length s t :=
  fun m => by rw [ht, runSequencer_emits es s ms m h]

end Sys2Proof.Machine
end

