-- ==== Sys2Proof/Laws/Script.lean ====
section
/-! SUPPORT. Script bytes: what reading one record does, its inverse, and the loop of Validate(). -/

namespace Sys2Proof

/-! ## The CF byte (R117, R192) -/

theorem argc_le (cf : Byte) : argc cf ≤ 127 := by
  have := (cf.extractLsb' 0 7).isLt
  simp only [argc]; omega

theorem recordLen_bounds (cf : Byte) : 2 ≤ recordLen cf ∧ recordLen cf ≤ 130 := by
  have := argc_le cf
  unfold recordLen
  split <;> omega

/-- The CF byte of a flag and a count of at most 127 reads back as both. -/
theorem cf_fields (d : Bool) {k : Nat} (hk : k ≤ 127) :
    argc ((if d then 0x80#8 else 0x00#8) ||| BitVec.ofNat 8 k) = k ∧
    delayFlag ((if d then 0x80#8 else 0x00#8) ||| BitVec.ofNat 8 k) = d := by
  have h : ∀ (d : Bool) (k : Fin 128), argc ((if d then 0x80#8 else 0x00#8) ||| BitVec.ofNat 8 k.val) = k.val ∧
      delayFlag ((if d then 0x80#8 else 0x00#8) ||| BitVec.ofNat 8 k.val) = d := by decide
  exact h d ⟨k, by omega⟩

/-- A CF byte is the one its own flag and count encode to. -/
theorem cf_eq (cf : Byte) : (if delayFlag cf then 0x80#8 else 0x00#8) ||| BitVec.ofNat 8 (argc cf) = cf := by
  have h : ∀ cf : BitVec 8, (if delayFlag cf then 0x80#8 else 0x00#8) ||| BitVec.ofNat 8 (argc cf) = cf := by decide
  exact h cf

/-! ## One record -/

theorem takeExact_eq (k : Nat) (bs : List Byte) :
    takeExact k bs = if k ≤ bs.length then some (bs.take k, bs.drop k) else none := by
  unfold takeExact
  by_cases h : k ≤ bs.length
  · rw [if_pos h, if_pos (List.length_take_of_le h)]
  · rw [if_neg h, if_neg]
    rw [List.length_take]; omega

theorem takeExact_append {k : Nat} {args rest : List Byte} (h : args.length = k) :
    takeExact k (args ++ rest) = some (args, rest) := by
  subst h
  rw [takeExact_eq, if_pos (by simp)]
  simp

/-- A record within its bound, encoded in front of any bytes, is read back with those bytes left. -/
theorem decodeRecord_encodeRecord {r : Record} (h : r.wellFormed = true) (rest : List Byte) :
    decodeRecord (encodeRecord r ++ rest) = .ok (r, rest) := by
  obtain ⟨opc, args, delay⟩ := r
  have hk : args.length ≤ 127 := by simpa [Record.wellFormed] using h
  have hcf := cf_fields delay.isSome hk
  simp only [encodeRecord, cfByte, List.cons_append, decodeRecord, List.append_assoc, hcf.1, hcf.2,
    takeExact_append (rfl : args.length = args.length)]
  cases delay <;> simp

/-- The bytes in front of what reading a record leaves are that record's encoding. -/
theorem decodeRecord_ok {bs rest : List Byte} {r : Record} (h : decodeRecord bs = .ok (r, rest)) :
    bs = encodeRecord r ++ rest ∧ r.wellFormed = true := by
  rcases bs with _ | ⟨opc, _ | ⟨cf, tail⟩⟩
  · cases h
  · cases h
  · simp only [decodeRecord, takeExact_eq] at h
    by_cases hk : argc cf ≤ tail.length
    · have hlen : (tail.take (argc cf)).length = argc cf := List.length_take_of_le hk
      have hcf := cf_eq cf
      have hle := argc_le cf
      rw [if_pos hk] at h
      simp only at h
      by_cases hd : delayFlag cf = true
      · rw [if_pos hd] at h
        rcases htl : tail.drop (argc cf) with _ | ⟨d, after⟩
        · rw [htl] at h; cases h
        · rw [htl] at h
          simp only [Except.ok.injEq, Prod.mk.injEq] at h
          obtain ⟨rfl, rfl⟩ := h
          refine ⟨?_, by simp [Record.wellFormed]; omega⟩
          have : tail = tail.take (argc cf) ++ (d :: after) := by rw [← htl, List.take_append_drop]
          rw [if_pos hd] at hcf
          simp only [encodeRecord, cfByte, Option.isSome_some, if_true, hlen, hcf, Option.toList_some,
            List.cons_append, List.append_assoc, List.nil_append, ← this]
      · rw [if_neg hd] at h
        simp only [Except.ok.injEq, Prod.mk.injEq] at h
        obtain ⟨rfl, rfl⟩ := h
        refine ⟨?_, by simp [Record.wellFormed]; omega⟩
        rw [if_neg hd] at hcf
        simp only [encodeRecord, cfByte, Option.isSome_none, hlen, Option.toList_none, List.append_nil,
          List.cons_append, List.take_append_drop, Bool.false_eq_true, if_false, hcf]
    · rw [if_neg hk] at h; cases h

/-- A record is read exactly where the bytes reach to its length, and what is left starts that far on (R118). -/
theorem decodeRecord_isOk (opc cf : Byte) (tail : List Byte) :
    (recordLen cf ≤ tail.length + 2 →
      ∃ r, decodeRecord (opc :: cf :: tail) = .ok (r, (opc :: cf :: tail).drop (recordLen cf)) ∧
        2 + r.args.length + r.delay.toList.length = recordLen cf) ∧
    (tail.length + 2 < recordLen cf → ∃ e, decodeRecord (opc :: cf :: tail) = .error e) := by
  have hdrop : (opc :: cf :: tail).drop (recordLen cf) = tail.drop (recordLen cf - 2) := by
    have := (recordLen_bounds cf).1
    obtain ⟨m, hm⟩ : ∃ m, recordLen cf = m + 2 := ⟨recordLen cf - 2, by omega⟩
    simp [hm]
  simp only [decodeRecord, takeExact_eq, hdrop]
  unfold recordLen
  by_cases hk : argc cf ≤ tail.length
  · rw [if_pos hk]
    by_cases hd : delayFlag cf = true
    · simp only [if_pos hd]
      rcases htl : tail.drop (argc cf) with _ | ⟨d, after⟩
      · have : tail.length ≤ argc cf := List.drop_eq_nil_iff.1 htl
        exact ⟨fun h => by omega, fun _ => ⟨_, rfl⟩⟩
      · have hlt : argc cf < tail.length := by
          by_contra hc
          rw [List.drop_eq_nil_iff.2 (by omega)] at htl
          cases htl
        refine ⟨fun _ => ⟨⟨opc, tail.take (argc cf), some d⟩, ?_, ?_⟩, fun h => by omega⟩
        · have : tail.drop (2 + argc cf + 1 - 2) = after := by
            rw [show 2 + argc cf + 1 - 2 = argc cf + 1 by omega, ← List.drop_drop, htl]; rfl
          rw [this]
        · simp [Nat.min_eq_left hk]
    · simp only [if_neg hd]
      refine ⟨fun _ => ⟨⟨opc, tail.take (argc cf), none⟩, ?_, ?_⟩, fun h => by omega⟩
      · rw [show 2 + argc cf + 0 - 2 = argc cf by omega]
      · simp [Nat.min_eq_left hk]
  · rw [if_neg hk]
    refine ⟨fun h => ?_, fun _ => ⟨_, rfl⟩⟩
    split at h <;> omega

/-! ## The loop of Validate() -/

/-- One round of the loop of Validate() (R181). -/
theorem scanRecords_succ {rom : List Byte} {n a b : Nat} :
    scanRecords rom (n + 1) a = some b ↔
      a + 1 < rom.length ∧ a + recordLen (romByte rom (a + 1)) ≤ rom.length ∧
        scanRecords rom n (a + recordLen (romByte rom (a + 1))) = some b := by
  simp only [scanRecords]
  split
  · next h => simp only [reduceCtorEq, false_iff]; omega
  · next h =>
    split
    · next h' => simp only [reduceCtorEq, false_iff]; omega
    · next h' => exact ⟨fun hs => ⟨by omega, by omega, hs⟩, fun hs => hs.2.2⟩

theorem scanRecords_le {rom : List Byte} {n a b : Nat} (h : scanRecords rom n a = some b) :
    a ≤ b ∧ b ≤ a + n * 130 := by
  induction n generalizing a with
  | zero => simp only [scanRecords, Option.some.injEq] at h; omega
  | succ n ih =>
    obtain ⟨-, -, h⟩ := scanRecords_succ.1 h
    have := recordLen_bounds (romByte rom (a + 1))
    have := ih h
    omega

/-- Where the loop of Validate() passes a record, the record there can be read, and what is left starts where the loop
goes on. -/
theorem decodeRecord_at {rom : List Byte} {a : Nat} (h1 : a + 1 < rom.length)
    (h2 : a + recordLen (romByte rom (a + 1)) ≤ rom.length) :
    ∃ r, decodeRecord (rom.drop a) = .ok (r, rom.drop (a + recordLen (romByte rom (a + 1)))) ∧
      2 + r.args.length + r.delay.toList.length = recordLen (romByte rom (a + 1)) := by
  have e : rom.drop a = rom[a] :: rom[a + 1] :: rom.drop (a + 2) := by
    rw [List.drop_eq_getElem_cons (by omega), List.drop_eq_getElem_cons (by omega)]
  have hb : romByte rom (a + 1) = rom[a + 1] := by
    simp [romByte, List.getElem?_eq_getElem h1]
  rw [hb] at h2 ⊢
  have hlen : (rom.drop (a + 2)).length = rom.length - (a + 2) := List.length_drop
  obtain ⟨r, hr, hl⟩ := (decodeRecord_isOk rom[a] rom[a + 1] (rom.drop (a + 2))).1 (by omega)
  refine ⟨r, ?_, hl⟩
  rw [e, hr, ← e, List.drop_drop]

/-- Validate() answers OK exactly when its loop ends at the image's length (R181). -/
theorem validate_iff {rom : List Byte} :
    validate rom = true ↔ 1 ≤ rom.length ∧ scanRecords rom (romByte rom 0).toNat 1 = some rom.length := by
  unfold validate
  split
  · next h => simp only [Bool.false_eq_true, false_iff]; omega
  · next h =>
    cases hs : scanRecords rom (romByte rom 0).toNat 1 with
    | none => simp
    | some a =>
      simp only [decide_eq_true_eq, Option.some.injEq]
      exact ⟨fun h' => ⟨by omega, h'⟩, fun h' => h'.2⟩

/-- A well-formed image is at most 33151 bytes (R12), so a 16-bit script pointer addresses all of it. -/
theorem validate_length {rom : List Byte} (h : validate rom = true) : rom.length ≤ 33151 := by
  obtain ⟨-, h⟩ := validate_iff.1 h
  have := scanRecords_le h
  have := (romByte rom 0).isLt
  omega

/-- Where the loop of Validate() passes `n` records, they can be read, and what is left starts where the loop ends. -/
theorem decodeRecords_of_scan {rom : List Byte} {n a b : Nat} (h : scanRecords rom n a = some b) :
    ∃ rs, decodeRecords n (rom.drop a) = .ok (rs, rom.drop b) ∧ rs.length = n := by
  induction n generalizing a with
  | zero =>
    simp only [scanRecords, Option.some.injEq] at h
    subst h
    exact ⟨[], rfl, rfl⟩
  | succ n ih =>
    obtain ⟨h1, h2, h3⟩ := scanRecords_succ.1 h
    obtain ⟨r, hr, -⟩ := decodeRecord_at h1 h2
    obtain ⟨rs, hrs, hl⟩ := ih h3
    exact ⟨r :: rs, by simp only [decodeRecords, hr, hrs], by simp [hl]⟩

end Sys2Proof
end

