-- ==== Sys2Proof/Tests/Slice0.lean ====
section
/-! SUPPORT. Tests from the spec's own vectors (95_test_vectors.md) and encodings, and for every obligation with hypotheses a
state and operands that meet them all. Each test names the vector or rule its expected value is from. -/

namespace Sys2Proof.Tests

open Sys2Proof Sys2Proof.Machine

/-! ## Small states -/

/-- The parameter values that 95_test_vectors.md assumes; R11's defaults for the rest. -/
def par : Config.Params :=
  { Config.params with physCols := 132, physRows := 162, bufBytes := 65536, spiCpol := false, spiCpha := false, sclkHz := 1 }

/-- After block reset, with the empty script `00`. -/
def base : State := { State.reset with par := par, rom := [0x00] }

/-- READY with the 2 × 2 Indexed8 window of program P2. -/
def ready8 : State :=
  { base with
    phase := .ready, cfgWidth := 2, cfgHeight := 2, cfgColstart := 1, cfgRowstart := 2, cfgMode := 1
    geomWidth := 2, geomHeight := 2, geomColstart := 1, geomRowstart := 2, fb := ⟨[(0, 0xFF), (3, 0x2A)], 4, 0⟩ }

/-- READY with the 1 × 1 RGB565 window of program P3. -/
def ready565 : State :=
  { base with
    phase := .ready, cfgWidth := 1, cfgHeight := 1, cfgMode := 0x0E
    geomWidth := 1, geomHeight := 1, geomColstart := 24, fb := ⟨[], 2, 0⟩ }

/-- An UPDATE just accepted. -/
def sending : State := { ready8 with phase := .transmitting, pending := updateSteps }

/-- A SETUP just accepted. -/
def starting : State := { base with phase := .resetting, pending := base.setupSteps }

/-- The corrupt script of program P4, before its SETUP. -/
def corrupt : State := { base with rom := [0x02, 0x01, 0x80] }

/-- After the SETUP of program P4. -/
def dead : State := { corrupt with phase := .failed, err := 0b00010 }

/-- About to play the script of vector S13, from its header on. -/
def playing : State :=
  { base with
    phase := .resetting, rom := [0x03, 0x01, 0x80, 0x96, 0x11, 0x80, 0xFF, 0x3A, 0x01, 0x05]
    pending := .playCount :: .playNext :: base.configSteps }

/-- The host's turn with a program. -/
def hostTurn (s : State) (ops : List HostOp) : State := { s with agenda := [.host], hostProgram := ops }

/-- The sequencer's turn with something to do. -/
def seqTurn (s : State) (ms : List Micro) : State := { s with agenda := [.sequencer], pending := ms }

/-- The next state of an outcome, if it has one. -/
def next? : Host.Outcome State Fault Refusal → Option State
  | .next s => some s
  | .fault _ => none
  | .refused _ => none

/-- One field of the next state. -/
def got {α : Type} (f : State → α) (o : Host.Outcome State Fault Refusal) : Option α := (next? o).map f

/-! ## WellFormed: an ill-formed term for each check -/

theorem test_wellFormed_reservedOp : Instr.wellFormed (.reservedOp 1 0) = false ∧ Instr.wellFormed (.reservedOp 3 0) = false ∧
    Instr.wellFormed (.reservedOp 0 0) = true ∧ Instr.wellFormed (.reservedOp 4 0) = true := by decide
theorem test_wellFormed_recPlain : Instr.wellFormed (.recPlain 0 (List.replicate 128 0)) = false ∧
    Instr.wellFormed (.recPlain 0 (List.replicate 127 0)) = true := by simp [Instr.wellFormed]
theorem test_wellFormed_recD : Instr.wellFormed (.recD 0 (List.replicate 128 0) 0) = false ∧
    Instr.wellFormed (.recD 0 (List.replicate 127 0) 255) = true := by simp [Instr.wellFormed]
theorem test_wellFormed_dlyMs : Instr.wellFormed (.dlyMs 255) = false ∧ Instr.wellFormed (.dlyMs 254) = true := by decide
theorem test_wellFormed_record : Record.wellFormed ⟨0, List.replicate 128 0, none⟩ = false ∧
    recordsWellFormed (List.replicate 256 ⟨0, [], none⟩) = false := by
  simp only [Record.wellFormed, recordsWellFormed, List.length_replicate]
  decide

/-! ## Decoding, from words written out -/

/-- R111, R112, R113. -/
theorem test_decode_hostCmd :
    decodeHostCmd 0x00000001 = .setup 0 ∧ decodeHostCmd 0x00000101 = .setup 1 ∧
    decodeHostCmd 0xFFFFFF02 = .update 0xFFFFFF ∧ decodeHostCmd 0x12345603 = .setPixel 0x123456 ∧
    decodeHostCmd 0x00000000 = .reservedOp 0 0 ∧ decodeHostCmd 0x000000FF = .reservedOp 0xFF 0 := by decide

/-- R31, the configuration half. -/
theorem test_decode_hostReg_low :
    decodeHostReg (rd 0x00) = .ok (.regCmd .read) ∧ decodeHostReg (rd 0x04) = .ok (.regStatus .read) ∧
    decodeHostReg (wr 0x08 2) = .ok (.regCfgWidth (.write 2)) ∧
    decodeHostReg (wr 0x0C 2) = .ok (.regCfgHeight (.write 2)) ∧
    decodeHostReg (wr 0x10 1) = .ok (.regCfgColstart (.write 1)) ∧
    decodeHostReg (wr 0x14 2) = .ok (.regCfgRowstart (.write 2)) ∧
    decodeHostReg (wr 0x18 1) = .ok (.regCfgMode (.write 1)) ∧
    decodeHostReg (rd 0x1C) = .ok (.regGeomWidth .read) := by decide

/-- R31, the other half. -/
theorem test_decode_hostReg_high :
    decodeHostReg (rd 0x20) = .ok (.regGeomHeight .read) ∧ decodeHostReg (rd 0x24) = .ok (.regGeomColstart .read) ∧
    decodeHostReg (rd 0x28) = .ok (.regGeomRowstart .read) ∧
    decodeHostReg (wr 0x2C 0xFFFF) = .ok (.regPixX (.write 0xFFFF)) ∧
    decodeHostReg (wr 0x30 0) = .ok (.regPixY (.write 0)) ∧
    decodeHostReg (wr 0x34 0xFFFFFF) = .ok (.regPixColor (.write 0xFFFFFF)) ∧
    decodeHostReg (rd 0x38) = .ok (.regReserved38 .read) ∧ decodeHostReg (rd 0x3C) = .ok (.regReserved3C .read) := by decide

/-- R82, vector G9. -/
theorem test_decode_meaningless :
    decodeHostReg ⟨.read, 0x04, 0, .bits16⟩ = .error .subword ∧ decodeHostReg (rd 0x02) = .error .misaligned := by decide

/-- R117, R118, vectors S1 to S4. -/
theorem test_cf_vectors :
    (argc 0x00, delayFlag 0x00, recordLen 0x00) = (0, false, 2) ∧ (argc 0x7F, delayFlag 0x7F, recordLen 0x7F) = (127, false, 129) ∧
    (argc 0x80, delayFlag 0x80, recordLen 0x80) = (0, true, 3) ∧ (argc 0xFF, delayFlag 0xFF, recordLen 0xFF) = (127, true, 130) := by
  decide

/-- R115 to R120, the records of vectors S11 and S12. -/
theorem test_decode_script :
    decode par (.header 0x03) = .ok (.count 3) ∧
    decode par (.record [0x2A, 0x04, 0x00, 0x00, 0x00, 0x4F]) = .ok (.recPlain 0x2A [0x00, 0x00, 0x00, 0x4F]) ∧
    decode par (.record [0xB1, 0x83, 0x01, 0x02, 0x03, 0x0A]) = .ok (.recD 0xB1 [0x01, 0x02, 0x03] 0x0A) ∧
    decode par (.delay 0xFF) = .ok .dly500 ∧ decode par (.delay 0xFE) = .ok (.dlyMs 254) ∧
    decode par (.record [0x11, 0x80]) = .error .truncated ∧ decode par (.record [0x11, 0x00, 0x00]) = .error .trailing := by
  decide

/-- R123 with the command bytes of R11. -/
theorem test_decode_wire :
    decodeWire par 0x2A = .ok .caset ∧ decodeWire par 0x2B = .ok .raset ∧ decodeWire par 0x2C = .ok .ramwr ∧
    decodeWire par 0x36 = .ok .madctl ∧ decodeWire par 0x21 = .ok .invon ∧ decodeWire par 0x20 = .error .notAFrame := by
  decide

/-- R121, R181, vectors S6 to S12 and S16. -/
theorem test_validate_vectors :
    validate [0x00] = true ∧ validate [] = false ∧ validate [0x01, 0x01] = false ∧ validate [0x02, 0x01, 0x80] = false ∧
    validate [0x01, 0x01, 0x80, 0x05, 0x00] = false ∧ validate [0x01, 0x2A, 0x04, 0x00, 0x00, 0x00, 0x4F] = true ∧
    validate [0x01, 0xB1, 0x83, 0x01, 0x02, 0x03, 0x0A] = true ∧ validate [0x01, 0x00, 0x80, 0x00] = true := by decide

/-- R182, R192, vector S14. -/
theorem test_image_s14 :
    decodeImage playing.rom = .ok [⟨0x01, [], some 0x96⟩, ⟨0x11, [], some 0xFF⟩, ⟨0x3A, [0x05], none⟩] ∧
    encodeImage [⟨0x01, [], some 0x96⟩, ⟨0x11, [], some 0xFF⟩, ⟨0x3A, [0x05], none⟩] = playing.rom := by decide

/-- R119, R132, vector S15. -/
theorem test_assembleDelay :
    assembleDelay 500 = some 0xFF ∧ assembleDelay 255 = none ∧ assembleDelay 254 = some 0xFE ∧ assembleDelay 499 = none := by decide

/-- R134, step 10 of program P2. -/
theorem test_setpixel_line :
    setpixelLine (-1) 0 0xFFFFFF = [wr 0x2C 0xFFFF, wr 0x30 0, wr 0x34 0xFFFFFF, wr 0x00 3] := by decide

/-- The opcode table's words (log 12). -/
theorem test_table_words :
    decodeTableWord 8 0x01 = some (.setup 0) ∧ decodeTableWord 8 0x04 = some (.regStatus .read) ∧
    decodeTableWord 8 0x80 = some (.recD 0 [] 0) ∧ decodeTableWord 8 0xFF = some .dly500 ∧
    decodeTableWord 8 0x36 = some .madctl ∧ decodeTableWord 0 0 = some (.count 0) ∧
    decodeTableWord 32 0x07 = some (.reservedOp 7 0) := by decide

/-- Words placed at reset run in the next step. -/
theorem test_withFetchWord :
    got (·.wireLog) (step (State.reset.withFetchWord 8 0x36)) = some [.sel] ∧
    got (·.wireLog) (step (State.reset.withFetchWord 8 0xFF)) = some [.wait 500] ∧
    got (·.hostReads) (step (State.reset.withFetchWord 8 0x04)) = some [0] ∧
    got (·.err) (step (State.reset.withFetchWord 32 0x07)) = some 0b10000 := by decide

/-! ## One step of each instruction -/

/-- Program P4: STATUS 0x26 after the SETUP, 0x66 after the UPDATE. -/
theorem test_setup_p4 :
    got State.status (exec (.setup 0) corrupt) = some 0x26 ∧ got State.status (exec (.update 0) dead) = some 0x66 := by decide
/-- R221, R224: with a reset line, SETUP begins the pulse. -/
theorem test_setup_starts :
    got (fun t => (t.phase, t.pending.take 3)) (exec (.setup 0) { base with cfgMode := 0x20 }) =
      some (.resetting, [.emit (.rst true), .emit (.wait 1), .emit (.rst false)]) := by decide
/-- R290. -/
theorem test_update : got (fun t => (t.phase, t.pending.head?)) (exec (.update 0) ready8) =
    some (.transmitting, some (.emit .sel)) := by decide
/-- Vector X-I: the 5-6-5 value of 0x123456, high byte first. -/
theorem test_setPixel_565 :
    got (fun t => (t.fb.read 0, t.fb.read 1)) (exec (.setPixel 0) { ready565 with pixColor := 0x123456 }) =
      some (0x11, 0xAA) := by decide
/-- Vector X-F: PIX_X = 0xFFFF is x = -1, clipped. Program P2, step 8. -/
theorem test_setPixel_8 :
    got (·.fb) (exec (.setPixel 0) { ready8 with pixX := 0xFFFF, pixColor := 0xFFFFFF }) = some ready8.fb ∧
    got (fun t => t.fb.read 2) (exec (.setPixel 0) { ready8 with pixY := 1, pixColor := 0x204080 }) = some 0x2A := by decide
/-- Vector G2; G5 with a reserved code. -/
theorem test_reservedOp :
    got State.status (exec (.reservedOp 0 0) base) = some 0x100 ∧ got (·.err) (exec (.reservedOp 7 0) starting) = some 0b01000 := by
  decide
/-- Vectors G1, G3 and G5. -/
theorem test_regCmd :
    got State.status (exec (.regCmd (.write 0x03)) base) = some 0x40 ∧
    got (·.phase) (exec (.regCmd (.write 0x101)) base) = some .resetting ∧
    got (·.err) (exec (.regCmd (.write 0x07)) starting) = some 0b01000 := by decide
/-- Vectors G10 and G8. -/
theorem test_regStatus :
    got (·.hostReads) (exec (.regStatus .read) ready8) = some [0x00000004] ∧
    got (·.err) (exec (.regStatus (.write 0xFFFFFFFF)) ready8) = some 0 := by decide
/-- Vector L13. -/
theorem test_regCfgWidth : got (·.cfgWidth) (exec (.regCfgWidth (.write 0x12345)) base) = some 0x2345 := by decide
theorem test_regCfgHeight : got (fun t => (t.cfgHeight, t.cfgWidth)) (exec (.regCfgHeight (.write 20)) base) = some (20, 0) := by decide
theorem test_regCfgColstart :
    got (fun t => (t.cfgColstart, t.cfgRowstart)) (exec (.regCfgColstart (.write 5)) base) = some (5, 0) := by decide
theorem test_regCfgRowstart :
    got (fun t => (t.cfgRowstart, t.cfgColstart)) (exec (.regCfgRowstart (.write 7)) base) = some (7, 0) := by decide
/-- R41: bits above [5:0] are discarded; vector G6. -/
theorem test_regCfgMode :
    got (·.cfgMode) (exec (.regCfgMode (.write 0xFFFFFFFF)) base) = some 0x3F ∧
    got (fun t => (t.cfgMode, t.err)) (exec (.regCfgMode (.write 0)) ready8) = some (1, 0b00100) := by decide
/-- R239's example, and R237. -/
theorem test_regGeom :
    got (·.geomWidth) (exec (.regGeomWidth (.write 5)) ready8) = some 2 ∧
    got (·.hostReads) (exec (.regGeomWidth .read) ready565) = some [1] ∧
    got (·.hostReads) (exec (.regGeomHeight .read) ready8) = some [2] ∧
    got (·.hostReads) (exec (.regGeomColstart .read) ready565) = some [24] ∧
    got (·.hostReads) (exec (.regGeomRowstart .read) ready8) = some [2] := by decide
/-- R266: the staging registers, while an UPDATE runs. -/
theorem test_regPix :
    got (·.pixX) (exec (.regPixX (.write 0xFFFFFFFF)) sending) = some 0xFFFF ∧
    got (·.pixY) (exec (.regPixY (.write 0x18000)) sending) = some 0x8000 ∧
    got (·.pixColor) (exec (.regPixColor (.write 0xAB123456)) sending) = some 0x123456 := by decide
/-- R45. -/
theorem test_regReserved :
    got (·.hostReads) (exec (.regReserved38 .read) ready8) = some [0] ∧
    got (fun t => (t.err, t.hostReads)) (exec (.regReserved3C (.write 1)) ready8) = some (0, []) := by decide
/-- R190's example. -/
theorem test_count : got (fun t => (t.recLeft, t.pc)) (exec (.count 3) base) = some (3, 1) := by decide
/-- R183's example: `3A 01 05`. -/
theorem test_recPlain : got (fun t => (t.wireLog, t.pending)) (exec (.recPlain 0x3A [0x05]) base) =
    some ([.sel], [.emit (.cmd 0x3A), .emit (.dat 0x05), .emit .desel, .advance 3]) := by decide
/-- R184's example: `11 80 FF`. -/
theorem test_recD : got (fun t => (t.wireLog, t.pending)) (exec (.recD 0x11 [] 0xFF) base) =
    some ([.sel], [.emit (.cmd 0x11), .emit .desel, .delay 0xFF, .advance 3]) := by decide
/-- R185, vector S5. -/
theorem test_delays :
    got (·.wireLog) (exec .dly500 base) = some [.wait 500] ∧ got (·.wireLog) (exec (.dlyMs 0x96) base) = some [.wait 150] ∧
    delayMs 0 = 0 ∧ delayMs 1 = 1 ∧ delayMs 254 = 254 := by decide
/-- Vector W2: GEOM (10, 2, 300, 255). -/
theorem test_window_w2 :
    let s := { ready8 with geomWidth := 10, geomHeight := 2, geomColstart := 300, geomRowstart := 255 }
    got (fun t => (t.wireLog, t.pending.take 4)) (exec .caset s) = some ([.cmd 0x2A], dataMicros [0x01, 0x2C, 0x01, 0x35]) ∧
    got (fun t => (t.wireLog, t.pending.take 4)) (exec .raset s) = some ([.cmd 0x2B], dataMicros [0x00, 0xFF, 0x01, 0x00]) := by decide
/-- The pixel data of program P2's UPDATE, and vector W7. -/
theorem test_ramwr :
    got (·.pending) (exec .ramwr ready8) = some (dataMicros [0xFF, 0xFF, 0x00, 0x00, 0x00, 0x00, 0x22, 0x55]) ∧
    got (·.pending) (exec .ramwr { ready565 with fb := ⟨[(0, 0xF8)], 2, 0⟩ }) = some (dataMicros [0xF8, 0x00]) := by decide
/-- Program P3: the mode byte 0x48 and the invert frame. -/
theorem test_mode_frames :
    got (·.pending) (exec .madctl ready565) = some [.emit (.cmd 0x36), .emit (.dat 0x48), .emit .desel] ∧
    got (·.pending) (exec .invon ready565) = some [.emit (.cmd 0x21), .emit .desel] := by decide

/-! ## Operand functions -/

/-- Vector L8. -/
theorem test_modeByte_l8 :
    [0x00, 0x02, 0x08, 0x10, 0x1A, 0x3F].map (fun m => State.modeByte { base with cfgMode := m }) =
      [0x00, 0x08, 0x40, 0x80, 0xC8, 0xC8] := by decide
/-- Vectors L1 to L7: the resolved geometry and whether it is valid. -/
theorem test_geometry_vectors :
    State.resolveGeometry base = ⟨80, 160, 24, 0⟩ ∧
    State.resolveGeometry { base with cfgWidth := 10, cfgHeight := 20, cfgColstart := 1 } = ⟨10, 20, 1, 0⟩ ∧
    base.geometryValid ⟨80, 160, 24, 0⟩ = true ∧ base.geometryValid ⟨80, 160, 5, 7⟩ = false ∧
    base.geometryValid ⟨128, 160, 24, 0⟩ = false ∧ base.geometryValid ⟨108, 160, 24, 0⟩ = true ∧
    State.geometryValid { base with par := { par with bufBytes := 25599 } } ⟨80, 160, 24, 0⟩ = false ∧
    State.geometryValid { base with par := { par with bufBytes := 25599 }, cfgMode := 1 } ⟨80, 160, 24, 0⟩ = true := by decide
/-- The colour table of 95_test_vectors.md. -/
theorem test_colours :
    [0x1F1F3F, 0x200000, 0x002000, 0x000040, 0x204080, 0x123456, 0xFF0000, 0x808080].map q332 =
      [0x00, 0x20, 0x04, 0x01, 0x2A, 0x05, 0xE0, 0x92] ∧
    [0x1F1F3F, 0x200000, 0x002000, 0x000040, 0x204080, 0x123456, 0xFF0000, 0x808080].map q565 =
      [0x18E7, 0x2000, 0x0100, 0x0008, 0x2210, 0x11AA, 0xF800, 0x8410] := by decide
/-- Vectors W3, W4 and W5. -/
theorem test_expansion :
    [0x00, 0xFF, 0xE0, 0x1C, 0x03, 0x2A, 0x49, 0x24, 0x92, 0xB6, 0xDB].map x332to565 =
      [0x0000, 0xFFFF, 0xF800, 0x07E0, 0x001F, 0x2255, 0x4A4A, 0x2120, 0x9495, 0xB5B5, 0xDEDF] ∧
    [0x2A, 0x92, 0xDB].map e332 = [0x2448AA, 0x9191AA, 0xDADAFF] := by decide
/-- Vectors X-B to X-D, Indexed8 and RGB565. -/
theorem test_offsets :
    let s := { ready8 with geomWidth := 80, geomHeight := 160 }
    (s.pixelOffset 79 0, s.pixelOffset 0 1, s.pixelOffset 79 159) = (79, 80, 12799) ∧
    (State.pixelOffset { s with cfgMode := 0 } 79 0, State.pixelOffset { s with cfgMode := 0 } 79 159) = (158, 25598) := by decide
/-- Vectors T4 and T5. -/
theorem test_bit_order :
    mosiBits true 0xA5 = [true, false, true, false, false, true, false, true] ∧
    mosiBits true 0x01 = [false, false, false, false, false, false, false, true] ∧
    mosiBits false 0x01 = [true, false, false, false, false, false, false, false] := by decide
/-- R362: an UPDATE cut short in its transaction ends the old trace with DESEL. -/
theorem test_blockReset :
    got (fun t => (t.phase, t.history, t.csN)) (step { sending with agenda := [.blockReset], csN := false, wireLog := [.sel] }) =
      some (.uninit, [[.sel, .desel]], true) := by decide
/-- R134: `wait_idle` stays while BUSY and goes on when idle. -/
theorem test_waitIdle :
    got (·.hostProgram) (step (hostTurn starting [.waitIdle])) = some [.waitIdle] ∧
    got (·.hostProgram) (step (hostTurn ready8 [.waitIdle])) = some [] := by decide

/-! ## Invariant states -/

theorem base_inv : base.Inv where
  legal := by decide
  fbWf := by decide
  fbListed := by decide
  fbCapacity := by decide
  plan := ⟨_, rfl, by decide⟩
  geometryUnset := by decide
  geometrySet := by decide
  valid := by decide
  cleared := by decide
  framed := by decide

theorem ready8_inv : ready8.Inv where
  legal := by decide
  fbWf := by decide
  fbListed := by decide
  fbCapacity := by decide
  plan := ⟨_, rfl, by decide⟩
  geometryUnset := by decide
  geometrySet := by decide
  valid := by decide
  cleared := by decide
  framed := by decide

theorem sending_inv : sending.Inv where
  legal := by decide
  fbWf := by decide
  fbListed := by decide
  fbCapacity := by decide
  plan := ⟨_, rfl, by decide⟩
  geometryUnset := by decide
  geometrySet := by decide
  valid := by decide
  cleared := by decide
  framed := by decide

theorem playing_inv : playing.Inv where
  legal := by decide
  fbWf := by decide
  fbListed := by decide
  fbCapacity := by decide
  plan := ⟨_, rfl, by decide⟩
  geometryUnset := by decide
  geometrySet := by decide
  valid := by decide
  cleared := by decide
  framed := by decide

theorem dead_inv : dead.Inv where
  legal := by decide
  fbWf := by decide
  fbListed := by decide
  fbCapacity := by decide
  plan := ⟨_, rfl, by decide⟩
  geometryUnset := by decide
  geometrySet := by decide
  valid := by decide
  cleared := by decide
  framed := by decide

theorem corrupt_inv : corrupt.Inv := { base_inv with valid := by decide }

/-! ## For each obligation with hypotheses, what meets them all -/

/-- DecodeEncodeRoundTrip: legal parameters, and well-formed operands at their bounds. -/
theorem witness_DecodeEncodeRoundTrip :
    par.Legal ∧ Instr.wellFormed (.reservedOp 0xFF 0xFFFFFF) = true ∧ Instr.wellFormed (.dlyMs 254) = true ∧
    Instr.wellFormed (.recD 0xFF [1, 2] 255) = true ∧ Instr.wellFormed .invon = true := by decide

/-- ScriptImageRoundTrip: both directions, the longest list among them. -/
theorem witness_ScriptImageRoundTrip :
    validate playing.rom = true ∧ recordsWellFormed [⟨0x11, [], some 255⟩, ⟨0, [1], none⟩] = true ∧
    recordsWellFormed (List.replicate 255 ⟨0, List.replicate 127 0, some 0⟩) = true :=
  ⟨by decide, by decide, by
    refine Bool.and_eq_true_iff.2 ⟨by rw [List.length_replicate]; decide, List.all_eq_true.2 fun r hr => ?_⟩
    rw [List.eq_of_mem_replicate hr, Record.wellFormed, List.length_replicate]
    decide⟩

/-- ValidateDecidesWellFormedness: a SETUP with a malformed image. -/
theorem witness_ValidateDecidesWellFormedness : corrupt.phase = .uninit ∧ validate corrupt.rom = false := by decide

/-- StepRunsHostAccess: an access that decodes, at both ends of the window; `wait_idle`, BUSY and idle. -/
theorem witness_StepRunsHostAccess :
    (hostTurn base [.access (wr 0x00 1)]).agenda = .host :: [] ∧
    (hostTurn base [.access (wr 0x00 1)]).hostProgram = .access (wr 0x00 1) :: [] ∧
    decodeHostReg (wr 0x00 1) = .ok (.regCmd (.write 1)) ∧
    decodeHostReg (rd 0x3C) = .ok (.regReserved3C .read) ∧
    (hostTurn sending [.waitIdle]).hostProgram = .waitIdle :: [] ∧ sending.phase.busy = true ∧
    (hostTurn ready8 [.waitIdle]).hostProgram = .waitIdle :: [] ∧ ready8.phase.busy = false := by decide

/-- StepRunsSequencerInstruction: a header, a record, a delay byte, a frame. -/
theorem witness_StepRunsSequencerInstruction :
    (seqTurn playing [.playCount]).agenda = .sequencer :: [] ∧ (seqTurn playing [.playCount]).pending = .playCount :: [] ∧
    playing.rom = 0x03 :: playing.rom.tail ∧
    (seqTurn playing [.playNext]).pending = .playNext :: [] ∧
    State.recLeft { playing with recLeft := 1, pc := 7 } ≠ 0 ∧
    decodeRecord (playing.rom.drop 7) = .ok (⟨0x3A, [0x05], none⟩, []) ∧
    (seqTurn playing [.delay 255]).pending = .delay 255 :: [] ∧
    (seqTurn sending [.frame .caset]).pending = .frame .caset :: [] := by decide

/-- StepEmitsOneEvent: every event. -/
theorem witness_StepEmitsOneEvent (e : WireEvent) :
    (seqTurn sending [.emit e]).agenda = .sequencer :: [] ∧ (seqTurn sending [.emit e]).pending = .emit e :: [] := ⟨rfl, rfl⟩

/-- MeaninglessAccessIsRefused: a 16-bit access, an offset of 2, and accesses at both ends of the window. -/
theorem witness_MeaninglessAccessIsRefused :
    (hostTurn base [.access (rd 0x02)]).agenda = .host :: [] ∧
    (hostTurn base [.access (rd 0x02)]).hostProgram = .access (rd 0x02) :: [] ∧
    HostAccess.width ⟨.read, 0x04, 0, .bits16⟩ ≠ .bits32 ∧ HostAccess.width ⟨.write, 0x3F, 0, .bits8⟩ ≠ .bits32 ∧
    (rd 0x02).width = .bits32 ∧ (rd 0x02).offset.toNat % 4 ≠ 0 ∧ (rd 0x3F).offset.toNat % 4 ≠ 0 ∧
    (rd 0x00).offset.toNat % 4 = 0 ∧ (rd 0x3C).offset.toNat % 4 = 0 := by decide

/-- IdleStepsChangeNothing: each of the four. -/
theorem witness_IdleStepsChangeNothing :
    base.agenda = [] ∧ State.agenda { sending with agenda := [.stall] } = .stall :: [] ∧
    (seqTurn base []).agenda = .sequencer :: [] ∧ (seqTurn base []).pending = [] ∧
    (hostTurn base []).agenda = .host :: [] ∧ (hostTurn base []).hostProgram = [] := by decide

/-- ConfigWrites: UNINIT, and a state that is not. -/
theorem witness_ConfigWrites :
    base.phase = .uninit ∧ dead.phase ≠ .uninit ∧ Instr.regCfgMode (.write 0) ∈ [Instr.regCfgWidth (.write 0),
      .regCfgHeight (.write 0), .regCfgColstart (.write 0), .regCfgRowstart (.write 0), .regCfgMode (.write 0)] := by decide

/-- CommandWriteAcceptance: each clause, with the codes next to its bounds. -/
theorem witness_CommandWriteAcceptance :
    sending.phase.busy = true ∧
    (dead.phase.busy = false ∧ opField 0x100 ∉ [0x01, 0x02, 0x03] ∧ opField 0x04 ∉ [0x01, 0x02, 0x03]) ∧
    (dead.phase.busy = false ∧ opField 0x101 = 0x01 ∧ dead.phase ≠ .uninit) ∧
    (base.phase.busy = false ∧ opField 0x02 ∈ [0x02, 0x03] ∧ opField 0xFFFFFF03 ∈ [0x02, 0x03] ∧ base.phase ≠ .ready) ∧
    (base.phase = .uninit ∧ opField 0x01 = 0x01) ∧ (ready8.phase = .ready ∧ opField 0x02 = 0x02) ∧
    opField 0x03 = 0x03 := by decide

/-- ReservedOperationRejected: the codes at the bounds, idle and BUSY. -/
theorem witness_ReservedOperationRejected :
    (∀ op ∈ [0x00#8, 0x04#8, 0xFF#8], op = 0 ∨ 4 ≤ op.toNat) ∧ base.phase.busy = false ∧ starting.phase.busy = true := by decide

/-- SetupRunsToReady. -/
theorem witness_SetupRunsToReady :
    base.Inv ∧ base.phase = .uninit ∧ base.geometryValid base.resolveGeometry = true ∧ validate base.rom = true :=
  ⟨base_inv, by decide, by decide, by decide⟩

/-- SetupAccepted: the geometry of vector L5, which just fits. -/
theorem witness_SetupAccepted :
    State.phase { base with cfgWidth := 108 } = .uninit ∧
    State.geometryValid { base with cfgWidth := 108 } (State.resolveGeometry { base with cfgWidth := 108 }) = true ∧
    validate base.rom = true := by decide

/-- SetupRejectedByValidation: a bad geometry, with a good and with a bad script; a bad script alone. -/
theorem witness_SetupRejectedByValidation :
    State.phase { base with cfgWidth := 109 } = .uninit ∧
    State.geometryValid { base with cfgWidth := 109 } (State.resolveGeometry { base with cfgWidth := 109 }) = false ∧
    State.geometryValid { corrupt with cfgWidth := 109 } (State.resolveGeometry { corrupt with cfgWidth := 109 }) = false ∧
    corrupt.geometryValid corrupt.resolveGeometry = true ∧ validate corrupt.rom = false := by decide

/-- UpdateRunsToReady. -/
theorem witness_UpdateRunsToReady : ready8.Inv ∧ ready8.phase = .ready := ⟨ready8_inv, rfl⟩

/-- UpdateAccepted. -/
theorem witness_UpdateAccepted : ready565.phase = .ready := rfl

/-- SetPixelWritesThePixel: the last pixel of a window, in both formats, where FB has no byte to spare. -/
theorem witness_SetPixelWritesThePixel :
    (let s := { ready8 with pixX := 1, pixY := 1, par := { par with bufBytes := 4 } }
     s.phase = .ready ∧ s.fb.wf = true ∧ s.inRange s.pixelX s.pixelY = true ∧
       s.pixelOffset s.pixelX s.pixelY + s.bpp ≤ s.par.bufBytes ∧ s.fmt8 = true) ∧
    (let s := { ready565 with par := { par with bufBytes := 2 } }
     s.phase = .ready ∧ s.fb.wf = true ∧ s.inRange s.pixelX s.pixelY = true ∧
       s.pixelOffset s.pixelX s.pixelY + s.bpp ≤ s.par.bufBytes ∧ s.fmt8 = false) := by decide

/-- SetPixelClips: just outside each edge (vectors X-E to X-H). -/
theorem witness_SetPixelClips :
    ready8.phase = .ready ∧ ready8.inRange 2 0 = false ∧ ready8.inRange (-1) 0 = false ∧ ready8.inRange 0 2 = false ∧
    State.pixelY { ready8 with pixY := 0x8000 } = -32768 ∧
    State.inRange { ready8 with pixX := 0xFFFF } (State.pixelX { ready8 with pixX := 0xFFFF }) 0 = false := by decide

/-- BufferOverrunFaults: one byte too few, for a pixel, for the stream and for the clear. -/
theorem witness_BufferOverrunFaults :
    (let s := { ready8 with pixX := 1, pixY := 1, par := { par with bufBytes := 3 } }
     s.phase = .ready ∧ s.inRange s.pixelX s.pixelY = true ∧
       s.par.bufBytes < s.pixelOffset s.pixelX s.pixelY + s.bpp ∧ s.par.bufBytes < s.activeLen) ∧
    (let s := seqTurn { base with par := { par with bufBytes := 25599 } } [.clearFb]
     s.agenda = .sequencer :: [] ∧ s.pending = .clearFb :: [] ∧ s.par.bufBytes < s.resolveGeometry.bytes s.bpp) := by decide

/-- PixelOffsetsAreExact: the corners of a window, and the last multiple of bpp. -/
theorem witness_PixelOffsetsAreExact :
    ready8.inRange 0 0 = true ∧ ready8.inRange 1 1 = true ∧ ready8.pixelOffset 1 1 = ready8.pixelOffset 1 1 ∧
    ready8.bpp ∣ 3 ∧ 3 < ready8.activeLen ∧ ready565.bpp ∣ 0 ∧ 0 < ready565.activeLen := by decide

/-- DelayForms: the delay bytes beside the sentinel. -/
theorem witness_DelayForms : (0 : Byte) ≠ 255 ∧ (254 : Byte) ≠ 255 := by decide

/-- PlaybackRunsTheWholeImage: the script of vector S13, and the empty one. -/
theorem witness_PlaybackRunsTheWholeImage :
    validate playing.rom = true ∧ playing.csN = true ∧ playing.pending = .playCount :: .playNext :: base.configSteps ∧
    validate base.rom = true := by decide

/-- MemoryWriteStreamsTheBuffer: both formats, FB just large enough, the last pixel. -/
theorem witness_MemoryWriteStreamsTheBuffer :
    (let s := { ready8 with par := { par with bufBytes := 4 } }
     s.activeLen ≤ s.par.bufBytes ∧ s.fmt8 = true ∧ 3 < s.geomWidth.toNat * s.geomHeight.toNat) ∧
    (let s := { ready565 with par := { par with bufBytes := 2 } }
     s.activeLen ≤ s.par.bufBytes ∧ s.fmt8 = false ∧ 0 < s.geomWidth.toNat * s.geomHeight.toNat) := by decide

/-- WindowIsInclusive: one pixel, and a window that ends at 65534. -/
theorem witness_WindowIsInclusive :
    (1 ≤ ready565.geomWidth.toNat ∧ 1 ≤ ready565.geomHeight.toNat ∧
      ready565.geomColstart.toNat + ready565.geomWidth.toNat ≤ 65535 ∧
      ready565.geomRowstart.toNat + ready565.geomHeight.toNat ≤ 65535) ∧
    (let s := { ready8 with geomColstart := 65533 }
     1 ≤ s.geomWidth.toNat ∧ 1 ≤ s.geomHeight.toNat ∧ s.geomColstart.toNat + s.geomWidth.toNat ≤ 65535 ∧
      s.geomRowstart.toNat + s.geomHeight.toNat ≤ 65535) := by decide

/-- CountLoadsTheHeader: the header of vector S13, from any `pc`. -/
theorem witness_CountLoadsTheHeader :
    let s := seqTurn { playing with pc := 7 } [.playCount]
    s.agenda = .sequencer :: [] ∧ s.pending = .playCount :: [] ∧ s.rom = 0x03 :: s.rom.tail ∧
    got (fun t => (t.phase, t.pc, t.recLeft)) (step s) = some (.playingInit, 1, 3) := by decide

/-- EmptyScriptTakesNoStep: the empty script, its startup wait over. -/
theorem witness_EmptyScriptTakesNoStep :
    let s := { starting with pending := .playCount :: .playNext :: base.configSteps }
    s.rom = [0x00] ∧ s.pending = .playCount :: .playNext :: s.configSteps ∧
    got (fun t => (t.phase, t.wireLog)) (s.runSequencer 1) = some (.playingInit, []) ∧
    got (fun t => (t.phase, t.wireLog)) (s.runSequencer 2) = some (.configMode, []) := by decide

/-- EveryStepKeepsTheInvariant: a sequencer's step that makes a transition, from a state with the invariant. -/
theorem witness_EveryStepKeepsTheInvariant :
    let s := seqTurn sending [.enter .ready]
    s.Inv ∧ (next? (step s)).isSome = true ∧ got (·.phase) (step s) = some .ready :=
  ⟨{ sending_inv with plan := ⟨_, rfl, by decide⟩ }, by decide, by decide⟩

/-- InvariantStatesNeverFault: a state with the invariant whose next step reads FB for the pixel stream. -/
theorem witness_InvariantStatesNeverFault :
    State.Inv { sending with agenda := [.sequencer], csN := false, wireLog := [.sel], pending := updateSteps.drop 3 } :=
  { sending_inv with plan := ⟨_, rfl, by decide⟩, framed := by decide }

/-- BusyExactlyWhenPending: a BUSY and an idle state. -/
theorem witness_BusyExactlyWhenPending : playing.Inv ∧ playing.phase.busy = true ∧ dead.Inv ∧ dead.phase.busy = false :=
  ⟨playing_inv, rfl, dead_inv, rfl⟩

/-- EveryOperationEnds: playback, an UPDATE and an idle state. -/
theorem witness_EveryOperationEnds :
    playing.Inv ∧ playing.phase.busy = true ∧ playing.pending ≠ [] ∧ sending.Inv ∧ ready8.Inv ∧ ready8.pending = [] :=
  ⟨playing_inv, by decide, by decide, sending_inv, ready8_inv, by decide⟩

/-- OnlyTheListedTransitions: a host's step that fails a SETUP, and a block reset. -/
theorem witness_OnlyTheListedTransitions :
    (hostTurn corrupt [.access (wr 0x00 1)]).Inv ∧
    got (fun t => (t.phase, t.err)) (step (hostTurn corrupt [.access (wr 0x00 1)])) = some (.failed, 0b00010) ∧
    got (fun t => (t.phase, t.err)) (step { dead with agenda := [.blockReset] }) = some (.uninit, 0) ∧
    State.Inv { dead with agenda := [.blockReset] } :=
  ⟨{ corrupt_inv with }, by decide, by decide, { dead_inv with }⟩

/-- ErrorBitsAreSticky: a step that sets a second bit. -/
theorem witness_ErrorBitsAreSticky :
    got (·.err) (step (hostTurn dead [.access (wr 0x00 2)])) = some 0b00110 ∧
    (hostTurn dead [.access (wr 0x00 2)]).agenda.head? ≠ some .blockReset := by decide

/-- ConfigurationIsLocked: a CFG_* write in READY, where both clauses apply. -/
theorem witness_ConfigurationIsLocked :
    (hostTurn ready8 [.access (wr 0x08 9)]).Inv ∧ got (·.cfgWidth) (step (hostTurn ready8 [.access (wr 0x08 9)])) = some 2 ∧
    (hostTurn ready8 [.access (wr 0x08 9)]).agenda.head? ≠ some .blockReset ∧ ready8.phase ≠ .uninit ∧
    ready8.phase.beforeGeometry = false :=
  ⟨{ ready8_inv with }, by decide, by decide, by decide, by decide⟩

/-- RomAndParametersAreConstant: a block reset's step. -/
theorem witness_RomAndParametersAreConstant :
    got (·.rom) (step { playing with agenda := [.blockReset] }) = some playing.rom := by decide

/-- HostProgramIsTakenInOrder: a sequencer's step; a host's step with two accesses to come, with `wait_idle` while BUSY and
when idle, and at the program's end. -/
theorem witness_HostProgramIsTakenInOrder :
    got (·.hostProgram) (step { hostTurn starting [.waitIdle] with agenda := [.sequencer] }) = some [.waitIdle] ∧
    got (·.hostProgram) (step (hostTurn ready8 [.access (rd 0x04), .waitIdle])) = some [.waitIdle] ∧
    got (·.hostProgram) (step (hostTurn starting [.waitIdle])) = some [.waitIdle] ∧
    got (fun t => (t.hostProgram, t.hostReads)) (step (hostTurn ready8 [.waitIdle])) = some ([], [4]) ∧
    got (·.hostProgram) (step (hostTurn ready8 [])) = some [] := by decide

/-- TraceGrowsByOneEvent: a host's, a sequencer's and a block reset's step. -/
theorem witness_TraceGrowsByOneEvent :
    got (fun t => (t.trace, t.hostProgram)) (step (hostTurn sending [.access (rd 0x04)])) = some ([], []) ∧
    got (·.trace) (step (seqTurn sending updateSteps)) = some [.sel] ∧
    got (·.trace) (step { sending with agenda := [.blockReset] }) = some [] := by decide

/-- HostCannotDisturbARunningOperation: a host's turn while BUSY. -/
theorem witness_HostCannotDisturbARunningOperation :
    (hostTurn sending [.access (wr 0x2C 7)]).phase.busy = true ∧ (hostTurn sending [.access (wr 0x2C 7)]).agenda = .host :: [] ∧
    got (·.pixX) (step (hostTurn sending [.access (wr 0x2C 7)])) = some 7 := by decide

/-- SequencerIgnoresTheHostSide: a sequencer's turn that answers a next state. -/
theorem witness_SequencerIgnoresTheHostSide :
    (seqTurn sending updateSteps).agenda = .sequencer :: [] ∧ (next? (step (seqTurn sending updateSteps))).isSome = true := by decide

/-- BufferIsFixedDuringUpdate: a SET_PIXEL that comes while an UPDATE runs. -/
theorem witness_BufferIsFixedDuringUpdate :
    (hostTurn sending [.access (wr 0x00 3)]).Inv ∧ (hostTurn sending [.access (wr 0x00 3)]).phase = .transmitting ∧
    got (·.fb) (step (hostTurn sending [.access (wr 0x00 3)])) = some ready8.fb ∧
    (hostTurn sending [.access (wr 0x00 3)]).agenda.head? ≠ some .blockReset :=
  ⟨{ sending_inv with }, by decide, by decide, by decide⟩

/-- UnspecifiedBufferIsUnobservable: a step that writes FB, and a step that is refused. -/
theorem witness_UnspecifiedBufferIsUnobservable :
    (hostTurn ready8 [.access (wr 0x00 3)]).Inv ∧ (hostTurn ready8 [.access (wr 0x00 3)]).agenda.head? ≠ some .blockReset ∧
    got (fun t => t.fb.read 0) (step (hostTurn ready8 [.access (wr 0x00 3)])) = some 0 ∧
    (hostTurn ready8 [.access (rd 0x02)]).Inv ∧ step (hostTurn ready8 [.access (rd 0x02)]) = .refused .misalignedAccess :=
  ⟨{ ready8_inv with }, by decide, by decide, { ready8_inv with }, rfl⟩

/-- FailedIsTerminal: the step that enters FAILED, for SCRIPT and for CONFIG, and a step in FAILED. -/
theorem witness_FailedIsTerminal :
    ((hostTurn corrupt [.access (wr 0x00 1)]).Inv ∧ corrupt.phase ≠ .failed ∧
      got (fun t => (t.phase, t.err)) (step (hostTurn corrupt [.access (wr 0x00 1)])) = some (.failed, 0b00010)) ∧
    ((hostTurn { base with cfgWidth := 133 } [.access (wr 0x00 0x101)]).Inv ∧
      got (fun t => (t.phase, t.err)) (step (hostTurn { base with cfgWidth := 133 } [.access (wr 0x00 0x101)])) =
        some (.failed, 0b00001)) ∧
    ((hostTurn dead [.access (wr 0x00 1)]).Inv ∧ dead.phase = .failed ∧
      got (·.phase) (step (hostTurn dead [.access (wr 0x00 1)])) = some .failed ∧
      (hostTurn dead [.access (wr 0x00 1)]).agenda.head? ≠ some .blockReset) :=
  ⟨⟨{ corrupt_inv with }, by decide, by decide⟩, ⟨{ base_inv with geometrySet := by decide, valid := by decide, cleared := by decide, plan := ⟨_, rfl, by decide⟩ }, by decide⟩,
    { dead_inv with }, by decide, by decide, by decide⟩

/-- BlockResetRestoresTheResetValues: with CS_N alone to close, with RST alone, with both, and with neither. -/
theorem witness_BlockResetRestoresTheResetValues :
    State.agenda { sending with agenda := [.blockReset], csN := false } = .blockReset :: [] ∧
    got (·.history) (step { sending with agenda := [.blockReset], csN := false }) = some [[.desel]] ∧
    got (·.history) (step { starting with agenda := [.blockReset], rst := false }) = some [[.rst true]] ∧
    got (·.history) (step { starting with agenda := [.blockReset], csN := false, rst := false }) =
      some [[.desel, .rst true]] ∧
    got (·.history) (step { ready8 with agenda := [.blockReset] }) = some [[]] := by decide

/-- EventCountsAndWaits: a clock rate above 0, the script of vector S13 and the empty one. -/
theorem witness_EventCountsAndWaits :
    0 < ready8.par.sclkHz ∧
    decodeImage playing.rom = .ok [⟨0x01, [], some 0x96⟩, ⟨0x11, [], some 0xFF⟩, ⟨0x3A, [0x05], none⟩] ∧
    decodeImage base.rom = .ok [] := by decide

end Sys2Proof.Tests
end

section
/-! The wire trace across one step (R8, R52, R103): by effect of the host, by effect of the sequencer, and by turn. -/

namespace Sys2Proof.Machine

theorem startSetup_trace (s : State) : s.startSetup.trace = s.trace := by
  rcases startSetup_cases s with ⟨-, h⟩ | ⟨-, -, h⟩ | ⟨-, -, h⟩ <;> rw [h] <;> rfl

theorem drawPixel_trace {s t : State} (h : s.drawPixel = .next t) : t.trace = s.trace := by
  rcases drawPixel_next h with ⟨-, rfl⟩ | ⟨-, -, rfl⟩ <;> rfl

/-- The host reaches the wire only through what it leaves in `s.pending`: no access emits an event itself. -/
theorem HostEffect.trace_eq {s t : State} (h : HostEffect s t) : t.trace = s.trace := by
  cases h with
  | setup => exact startSetup_trace s
  | pixel _ _ hd => exact drawPixel_trace hd
  | returned | ignored | raised | update | cfgWidth | cfgHeight | cfgColstart | cfgRowstart | cfgMode | pixX | pixY
  | pixColor => rfl

/-- The effects that emit are `emit` and `begin`, one event each; the others are updates of the engine's own state. -/
theorem SequencerEffect.trace_eq_or_append {s t : State} (h : SequencerEffect s t) :
    t.trace = s.trace ∨ ∃ e, t.trace = s.trace ++ [e] := by
  cases h with
  | idle | enter | count | loopEnd | advance | recordDone | clear => exact .inl rfl
  | emit | delay => exact .inr ⟨_, emit_trace _ _⟩
  | record | caset | raset | ramwr | madctl | invon => exact .inr ⟨_, begin_trace _ _ _⟩

/-- Settles O53: each kind of turn that `step_cases` lists, with the trace its effect leaves. -/
theorem traceGrowsByOneEvent : Obligations.TraceGrowsByOneEvent := by
  intro s t h
  rcases step_cases h with ⟨ha, rfl⟩ | ⟨ts, ha, rfl⟩ | ⟨ts, ha, rfl⟩ | ⟨ts, ps, ha, -, he⟩ | ⟨ts, ha, he⟩
  · simp [ha]
  · simp [ha, State.trace]
  · simp [ha]
  · have ht : t.trace = s.trace := he.trace_eq
    simp [ha, ht]
  · have ht : t.trace = s.trace ∨ ∃ e, t.trace = s.trace ++ [e] := he.trace_eq_or_append
    simpa [ha] using ht

end Sys2Proof.Machine
end

section
/-! The discipline of `s.pending` (R47, R159, R220): what one element asks of the plan and does to it, when a whole list of
elements keeps it to an idle end, and that the steps of SETUP, UPDATE and one record do. -/

namespace Sys2Proof.Machine

/-! ## One element -/

/-- The plan after a wire event: the two line levels follow the event. -/
def Plan.emitted (v : Plan) (e : WireEvent) : Plan := { v with csN := e.csAfter v.csN, rst := e.rstAfter v.rst }

/-- A wire event that may stand in `s.pending` keeps the framing (R159), and only an operation in progress emits. -/
theorem Plan.next_emit {rom : List Byte} {v w : Plan} {e : WireEvent} (h : v.next rom (.emit e) = some w) :
    w = v.emitted e ∧ e.allowed v.csN = true ∧ v.phase.busy = true := by
  cases e <;> simp only [Plan.next, Option.ite_none_right_eq_some, Option.some.injEq] at h <;> obtain ⟨hc, rfl⟩ := h
  case sel => obtain ⟨hcs, hp⟩ := hc; refine ⟨rfl, hcs, ?_⟩; rcases hp with hp | hp | hp <;> rw [hp] <;> rfl
  case desel | cmd | dat => exact ⟨rfl, by simp [WireEvent.allowed, hc.1], hc.2⟩
  case rst => exact ⟨rfl, hc.1, by rw [hc.2]; rfl⟩
  case wait => obtain ⟨hcs, hp⟩ := hc; refine ⟨rfl, hcs, ?_⟩; rcases hp with hp | hp <;> rw [hp] <;> rfl

/-- The lifecycle states that a running operation enters by itself (R220). -/
theorem Plan.mayEnter_cases {v : Plan} {ph : Phase} (h : v.mayEnter ph = true) :
    ph = .ready ∧ ((v.phase = .configMode ∧ v.cleared = true) ∨ v.phase = .transmitting) := by
  unfold Plan.mayEnter at h
  split at h
  · next hp => exact ⟨rfl, .inl ⟨hp, h⟩⟩
  · next hp => exact ⟨rfl, .inr hp⟩
  · cases h

theorem Plan.next_enter {rom : List Byte} {v w : Plan} {ph : Phase} (h : v.next rom (.enter ph) = some w) :
    w = { v with phase := .ready } ∧ ph = .ready ∧
      ((v.phase = .configMode ∧ v.cleared = true) ∨ v.phase = .transmitting) := by
  simp only [Plan.next, Option.ite_none_right_eq_some, Option.some.injEq] at h
  obtain ⟨⟨-, -, hm⟩, rfl⟩ := h
  obtain ⟨rfl, hp⟩ := Plan.mayEnter_cases hm
  exact ⟨rfl, rfl, hp⟩

theorem Plan.next_playCount {rom : List Byte} {v w : Plan} (h : v.next rom .playCount = some w) :
    v.phase = .resetting ∧ ∃ n bs, rom = n :: bs ∧ w = { v with phase := .playingInit, pc := 1, left := n } := by
  simp only [Plan.next, Option.ite_none_right_eq_some] at h
  obtain ⟨⟨-, -, hp⟩, h⟩ := h
  cases rom with
  | nil => cases h
  | cons n bs => exact ⟨hp, n, bs, rfl, (Option.some.inj h).symm⟩

theorem Plan.next_playNext_iff {rom : List Byte} {v w : Plan} :
    v.next rom .playNext = some w ↔
      (v.csN = true ∧ v.phase = .playingInit ∧ scanRecords rom v.left.toNat v.pc.toNat = some rom.length) ∧
        w = { v with phase := .configMode, pc := BitVec.ofNat 16 rom.length, left := 0 } := by
  simp only [Plan.next, Option.ite_none_right_eq_some, Option.some.injEq, eq_comm (a := w)]

theorem Plan.next_delay {rom : List Byte} {v w : Plan} {d : Byte} (h : v.next rom (.delay d) = some w) :
    w = v ∧ v.csN = true ∧ v.phase = .playingInit := by
  simp only [Plan.next, Option.ite_none_right_eq_some, Option.some.injEq] at h
  exact ⟨h.2.symm, h.1⟩

theorem Plan.next_advance {rom : List Byte} {v w : Plan} {n : Nat} (h : v.next rom (.advance n) = some w) :
    w = { v with pc := v.pc + BitVec.ofNat 16 n } ∧ v.phase = .playingInit := by
  simp only [Plan.next, Option.ite_none_right_eq_some, Option.some.injEq] at h
  exact ⟨h.2.symm, h.1.2⟩

theorem Plan.next_recordDone {rom : List Byte} {v w : Plan} (h : v.next rom .recordDone = some w) :
    w = { v with left := v.left - 1 } ∧ v.phase = .playingInit := by
  simp only [Plan.next, Option.ite_none_right_eq_some, Option.some.injEq] at h
  exact ⟨h.2.symm, h.1.2⟩

/-- The frames of UPDATE stand inside its transaction (R290). -/
theorem Plan.next_updateFrame {rom : List Byte} {v w : Plan} {f : Frame} (h : v.next rom (.frame f) = some w)
    (hf : f = .caset ∨ f = .raset ∨ f = .ramwr) : w = v ∧ v.csN = false ∧ v.phase = .transmitting := by
  rcases hf with rfl | rfl | rfl <;>
    (simp only [Plan.next, Option.ite_none_right_eq_some, Option.some.injEq] at h; exact ⟨h.2.symm, h.1⟩)

/-- The frames of SETUP are transactions of their own (R230, R231). -/
theorem Plan.next_setupFrame {rom : List Byte} {v w : Plan} {f : Frame} (h : v.next rom (.frame f) = some w)
    (hf : f = .madctl ∨ f = .invon) : w = v ∧ v.csN = true ∧ v.phase = .configMode := by
  rcases hf with rfl | rfl <;>
    (simp only [Plan.next, Option.ite_none_right_eq_some, Option.some.injEq] at h; exact ⟨h.2.symm, h.1⟩)

theorem Plan.next_clearFb {rom : List Byte} {v w : Plan} (h : v.next rom .clearFb = some w) :
    w = { v with cleared := true } ∧ v.phase = .configMode := by
  simp only [Plan.next, Option.ite_none_right_eq_some, Option.some.injEq] at h
  exact ⟨h.2.symm, h.1.2⟩

/-- Nothing may stand in `s.pending` of an engine that is not BUSY. -/
theorem Plan.next_busy {rom : List Byte} {v w : Plan} {m : Micro} (h : v.next rom m = some w) : v.phase.busy = true := by
  cases m with
  | emit e => exact (Plan.next_emit h).2.2
  | enter ph => obtain ⟨-, -, ⟨hp, -⟩ | hp⟩ := Plan.next_enter h <;> rw [hp] <;> rfl
  | playCount => rw [(Plan.next_playCount h).1]; rfl
  | playNext => rw [(Plan.next_playNext_iff.1 h).1.2.1]; rfl
  | delay d => rw [(Plan.next_delay h).2.2]; rfl
  | advance n => rw [(Plan.next_advance h).2]; rfl
  | recordDone => rw [(Plan.next_recordDone h).2]; rfl
  | frame f =>
    cases f with
    | caset | raset | ramwr => rw [(Plan.next_updateFrame h (by simp)).2.2]; rfl
    | madctl | invon => rw [(Plan.next_setupFrame h (by simp)).2.2]; rfl
  | clearFb => rw [(Plan.next_clearFb h).2]; rfl

/-! ## A list of elements -/

@[simp] theorem Plan.after_nil (rom : List Byte) (v : Plan) : v.after rom [] = some v := rfl

@[simp] theorem Plan.after_cons (rom : List Byte) (v : Plan) (m : Micro) (ms : List Micro) :
    v.after rom (m :: ms) = (v.next rom m).bind (·.after rom ms) := by
  rw [Plan.after]
  cases v.next rom m <;> rfl

theorem Plan.after_append (rom : List Byte) (v : Plan) (ms ms' : List Micro) :
    v.after rom (ms ++ ms') = (v.after rom ms).bind (·.after rom ms') := by
  induction ms generalizing v with
  | nil => rfl
  | cons m ms ih => cases h : v.next rom m <;> simp [h, ih]

/-- The clause of the invariant about `s.pending`: the elements run to their end within the discipline, and end idle with
both lines high. -/
def Plan.Ends (rom : List Byte) (v : Plan) (ms : List Micro) : Prop :=
  ∃ w, v.after rom ms = some w ∧ w.phase.busy = false ∧ w.csN = true ∧ w.rst = true

theorem State.Inv.ends {s : State} (h : s.Inv) : s.plan.Ends s.rom s.pending := h.plan

@[simp] theorem Plan.ends_nil {rom : List Byte} {v : Plan} :
    v.Ends rom [] ↔ v.phase.busy = false ∧ v.csN = true ∧ v.rst = true := by
  simp [Plan.Ends]

theorem Plan.ends_cons {rom : List Byte} {v : Plan} {m : Micro} {ms : List Micro} :
    v.Ends rom (m :: ms) ↔ ∃ w, v.next rom m = some w ∧ w.Ends rom ms := by
  cases h : v.next rom m <;> simp [Plan.Ends, h]

/-- Elements in front that take one plan to another leave the rest to run from there. -/
theorem Plan.ends_append {rom : List Byte} {v w : Plan} {ms ms' : List Micro} (h : v.after rom ms = some w) :
    v.Ends rom (ms ++ ms') ↔ w.Ends rom ms' := by
  simp [Plan.Ends, Plan.after_append, h]

/-! ## The elements that the operations leave in `s.pending` -/

/-- Data bytes inside a transaction leave the plan as it is (R155). -/
theorem Plan.after_dataMicros {rom : List Byte} {v : Plan} (bs : List Byte) (hc : v.csN = false)
    (hb : v.phase.busy = true) : v.after rom (dataMicros bs) = some v := by
  induction bs with
  | nil => rfl
  | cons b bs ih =>
    have hn : v.next rom (.emit (.dat b)) = some v := if_pos ⟨hc, hb⟩
    show v.after rom (.emit (.dat b) :: dataMicros bs) = some v
    rw [Plan.after_cons, hn, Option.bind_some, ih]

/-- A command byte, its data and DESEL, after the SEL that opened the transaction, leave the plan where it was. -/
theorem Plan.after_transaction {rom : List Byte} {v : Plan} (b : Byte) (bs : List Byte) (hc : v.csN = true)
    (hb : v.phase.busy = true) :
    (v.emitted .sel).after rom (.emit (.cmd b) :: (dataMicros bs ++ [.emit .desel])) = some v := by
  have hcmd : (v.emitted .sel).next rom (.emit (.cmd b)) = some (v.emitted .sel) := if_pos ⟨rfl, hb⟩
  have hdesel : (v.emitted .sel).next rom (.emit .desel) = some v :=
    (if_pos ⟨rfl, hb⟩).trans (by rw [← hc]; rfl)
  have hdata := Plan.after_dataMicros (rom := rom) (v := v.emitted .sel) bs rfl hb
  rw [Plan.after_cons, hcmd, Option.bind_some, Plan.after_append, hdata, Option.bind_some, Plan.after_cons, hdesel,
    Option.bind_some, Plan.after_nil]

/-- The rest of a record brings CS_N up again and `pc` past the record (R183, R184). -/
theorem Plan.after_record {rom : List Byte} {v : Plan} (r : Record) (hc : v.csN = true) (hp : v.phase = .playingInit) :
    (v.emitted .sel).after rom (recordRest r) =
      some { v with pc := v.pc + BitVec.ofNat 16 (2 + r.args.length + r.delay.toList.length) } := by
  have hsplit : recordRest r = (.emit (.cmd r.opcode) :: (dataMicros r.args ++ [.emit .desel])) ++
      (r.delay.toList.map .delay ++ [.advance (2 + r.args.length + r.delay.toList.length)]) := by simp [recordRest]
  rw [hsplit, Plan.after_append, Plan.after_transaction _ _ hc (by rw [hp]; rfl), Option.bind_some]
  cases r.delay <;> simp [Plan.next, hc, hp]

/-- SETUP's own frames and the buffer clear run from CONFIG_MODE to READY (R230 to R233). -/
theorem Plan.configSteps_ends {rom : List Byte} {v : Plan} (s : State) (hc : v.csN = true) (hr : v.rst = true)
    (hp : v.phase = .configMode) : v.Ends rom s.configSteps := by
  cases hi : s.invert <;>
    simp [Plan.Ends, State.configSteps, hi, Plan.next, hc, hr, hp, Plan.mayEnter, Phase.busy]

theorem Plan.after_resetPulse {rom : List Byte} {v : Plan} (s : State) (hc : v.csN = true) (hr : v.rst = true)
    (hp : v.phase = .resetting) : v.after rom s.resetPulse = some v := by
  obtain ⟨csN, rst, cleared, phase, pc, left⟩ := v
  obtain rfl : rst = true := hr
  obtain rfl : csN = true := hc
  obtain rfl : phase = .resetting := hp
  unfold State.resetPulse
  split <;> simp [Plan.next]

/-- The steps of an accepted SETUP run to READY: the script plays to its end, as Validate() found (R181, R221). -/
theorem Plan.setupSteps_ends {s : State} {v : Plan} (hv : validate s.rom = true) (hc : v.csN = true)
    (hr : v.rst = true) (hp : v.phase = .resetting) : v.Ends s.rom s.setupSteps := by
  obtain ⟨hlen, hscan⟩ := validate_iff.1 hv
  obtain ⟨n, bs, hrom⟩ := List.exists_cons_of_length_pos hlen
  have hn : romByte s.rom 0 = n := by rw [hrom]; rfl
  have hwait : v.next s.rom (.emit (.wait Config.tStartup)) = some v := if_pos ⟨hc, .inl hp⟩
  have hcount : v.next s.rom .playCount = some { v with phase := .playingInit, pc := 1, left := n } := by
    simp [Plan.next, hc, hr, hp, hrom]
  have hplay : Plan.next s.rom { v with phase := .playingInit, pc := 1, left := n } .playNext =
      some { v with phase := .configMode, pc := BitVec.ofNat 16 s.rom.length, left := 0 } :=
    Plan.next_playNext_iff.2 ⟨⟨hc, rfl, hn ▸ hscan⟩, rfl⟩
  rw [State.setupSteps, Plan.ends_append (Plan.after_resetPulse s hc hr hp)]
  exact Plan.ends_cons.2 ⟨_, hwait, Plan.ends_cons.2 ⟨_, hcount, Plan.ends_cons.2 ⟨_, hplay,
    Plan.configSteps_ends s hc hr rfl⟩⟩⟩

/-- The steps of an accepted UPDATE run to READY (R290). -/
theorem Plan.updateSteps_ends {rom : List Byte} {v : Plan} (hc : v.csN = true) (hr : v.rst = true)
    (hp : v.phase = .transmitting) : v.Ends rom updateSteps := by
  simp [Plan.Ends, updateSteps, Plan.next, hc, hr, hp, Plan.mayEnter, Phase.busy]

end Sys2Proof.Machine
end

section
/-! The invariant: it holds at reset, every effect of the host and of the sequencer keeps it, and so does every step. -/

namespace Sys2Proof.Machine

/-! ## What the invariant says of `s.pending` -/

/-- With nothing pending the engine is idle and both lines are high. -/
theorem State.Inv.of_pending_nil {s : State} (h : s.Inv) (hp : s.pending = []) :
    s.phase.busy = false ∧ s.csN = true ∧ s.rst = true := by
  have hends := h.ends
  rw [hp] at hends
  exact Plan.ends_nil.1 hends

/-- The element at the head of `s.pending` may stand where the sequencer stands, and the rest of them runs on from it. -/
theorem State.Inv.head {s : State} (h : s.Inv) {m : Micro} {ms : List Micro} (hp : s.pending = m :: ms) :
    ∃ v, s.plan.next s.rom m = some v ∧ v.Ends s.rom ms := by
  have hends := h.ends
  rw [hp] at hends
  exact Plan.ends_cons.1 hends

/-- An engine that is not BUSY has nothing pending (R35, R47). -/
theorem State.Inv.pending_nil {s : State} (h : s.Inv) (hb : s.phase.busy = false) : s.pending = [] := by
  rcases hp : s.pending with _ | ⟨m, ms⟩
  · rfl
  · obtain ⟨v, hv, -⟩ := h.head hp
    exact absurd (Plan.next_busy hv) (by rw [show s.plan.phase = s.phase from rfl, hb]; simp)

/-- Settles O44: an element may stand in `s.pending` only of a BUSY engine, and with none left the plan has ended idle. -/
theorem busyExactlyWhenPending : Obligations.BusyExactlyWhenPending := by
  intro s h
  constructor
  · intro hb hp
    rw [(h.of_pending_nil hp).1] at hb
    cases hb
  · intro hp
    by_contra hb
    exact hp (h.pending_nil (Bool.not_eq_true _ |>.mp hb))

/-- While an operation runs, the geometry and the script are the valid ones that SETUP accepted (R221, R222). -/
theorem State.Inv.valid_of_busy {s : State} (h : s.Inv) (hb : s.phase.busy = true) :
    s.geometryValid s.resolveGeometry = true ∧ validate s.rom = true :=
  h.valid (by rintro hp; rw [hp] at hb; cases hb) (by rintro hp; rw [hp] at hb; cases hb)

/-! ## The wire -/

theorem framedFrom_append {c d : Bool} {es : List WireEvent} (h : framedFrom c es = some d) (es' : List WireEvent) :
    framedFrom c (es ++ es') = framedFrom d es' := by
  induction es generalizing c with
  | nil => cases h; rfl
  | cons e es ih =>
    simp only [framedFrom, Option.ite_none_right_eq_some] at h
    simp only [List.cons_append, framedFrom, if_pos h.1]
    exact ih h.2

/-- A step that emits an event the framing allows, and leaves a plan that ends, keeps the invariant. -/
theorem State.Inv.emit {s : State} (h : s.Inv) {e : WireEvent} {ms : List Micro} (he : e.allowed s.csN = true)
    (hp : (s.plan.emitted e).Ends s.rom ms) : ({ s with pending := ms }.emit e).Inv :=
  { h with
    plan := hp
    framed := by
      have : framedFrom true (s.trace ++ [e]) = framedFrom s.csN [e] := framedFrom_append h.framed _
      rw [emit_trace]
      exact this.trans (by simp [framedFrom, he]) }

/-- A step that begins an instruction, and leaves in front of `s.pending` what brings the plan to one that ends, keeps the
invariant. -/
theorem State.Inv.begin {s : State} (h : s.Inv) {e : WireEvent} {rest ms : List Micro} {w : Plan}
    (he : e.allowed s.plan.csN = true) (ha : (s.plan.emitted e).after s.rom rest = some w) (hw : w.Ends s.rom ms) :
    ({ s with pending := ms }.begin e rest).Inv :=
  h.emit he ((Plan.ends_append ha).2 hw)

/-! ## The host -/

theorem State.Inv.failSetup {s : State} (h : s.Inv) (hp : s.phase = .uninit) (e : Err) : (s.failSetup e).Inv := by
  have hnil : s.pending = [] := h.pending_nil (by rw [hp]; rfl)
  obtain ⟨-, hcs, hrst⟩ := h.of_pending_nil hnil
  exact
    { h with
      plan := by
        show Plan.Ends s.rom _ s.pending
        rw [hnil]
        exact Plan.ends_nil.2 ⟨rfl, hcs, hrst⟩
      geometryUnset := fun _ => h.geometryUnset (by rw [hp]; rfl)
      geometrySet := nofun
      valid := fun _ hf => absurd rfl hf
      cleared := by simp }

theorem State.Inv.startSetup {s : State} (h : s.Inv) (hp : s.phase = .uninit) : s.startSetup.Inv := by
  rcases startSetup_cases s with ⟨-, hs⟩ | ⟨-, -, hs⟩ | ⟨hg, hv, hs⟩ <;> rw [hs]
  · exact h.failSetup hp _
  · exact h.failSetup hp _
  · obtain ⟨-, hcs, hrst⟩ := h.of_pending_nil (h.pending_nil (by rw [hp]; rfl))
    exact
      { h with
        plan := Plan.setupSteps_ends hv hcs hrst rfl
        geometryUnset := fun _ => h.geometryUnset (by rw [hp]; rfl)
        geometrySet := nofun
        valid := fun _ _ => ⟨hg, hv⟩
        cleared := by simp }

theorem State.Inv.startUpdate {s : State} (h : s.Inv) (hp : s.phase = .ready) : s.startUpdate.Inv := by
  obtain ⟨-, hcs, hrst⟩ := h.of_pending_nil (h.pending_nil (by rw [hp]; rfl))
  exact
    { h with
      plan := Plan.updateSteps_ends hcs hrst rfl
      geometryUnset := nofun
      geometrySet := fun _ => h.geometrySet (by rw [hp]; rfl)
      valid := fun _ _ => h.valid (by simp [hp]) (by simp [hp])
      cleared := fun _ => h.cleared (.inl hp) }

/-- Before SETUP the CFG_* registers are free: nothing in the invariant of an engine in UNINIT depends on them. -/
theorem State.Inv.configWrite {s : State} (h : s.Inv) (hp : s.phase = .uninit) (w ht cs rs : Half) (m : BitVec 6) :
    ({ s with cfgWidth := w, cfgHeight := ht, cfgColstart := cs, cfgRowstart := rs, cfgMode := m } : State).Inv := by
  have hnil : s.pending = [] := h.pending_nil (by rw [hp]; rfl)
  exact
    { h with
      plan := by
        show Plan.Ends s.rom _ s.pending
        rw [hnil]
        exact Plan.ends_nil.2 (h.of_pending_nil hnil)
      geometrySet := by simp [hp, Phase.beforeGeometry]
      valid := fun hu => absurd hp hu
      cleared := by simp [hp] }

/-- An in-range pixel lies within the active part of FB (R263, R264). -/
theorem pixelOffset_add_bpp_le {s : State} (h : s.inRange s.pixelX s.pixelY = true) :
    s.pixelOffset s.pixelX s.pixelY + s.bpp ≤ s.activeLen := by
  simp only [State.inRange, Bool.and_eq_true, decide_eq_true_eq] at h
  obtain ⟨⟨⟨hx0, hx⟩, hy0⟩, hy⟩ := h
  have hx' : s.pixelX.toNat + 1 ≤ s.geomWidth.toNat := by omega
  have hy' : s.pixelY.toNat + 1 ≤ s.geomHeight.toNat := by omega
  calc s.pixelOffset s.pixelX s.pixelY + s.bpp
      = (s.pixelX.toNat + 1 + s.pixelY.toNat * s.geomWidth.toNat) * s.bpp := by
        simp only [State.pixelOffset]; ring
    _ ≤ ((s.pixelY.toNat + 1) * s.geomWidth.toNat) * s.bpp := Nat.mul_le_mul_right _ (by linarith)
    _ ≤ (s.geomHeight.toNat * s.geomWidth.toNat) * s.bpp := Nat.mul_le_mul_right _ (Nat.mul_le_mul_right _ hy')
    _ = s.activeLen := by simp only [State.activeLen, Geometry.bytes, State.geom, Nat.mul_comm s.geomHeight.toNat]

theorem State.Inv.drawPixel {s t : State} (h : s.Inv) (hp : s.phase = .ready) (hd : s.drawPixel = .next t) : t.Inv := by
  rcases drawPixel_next hd with ⟨-, rfl⟩ | ⟨hr, -, rfl⟩
  · exact h
  · have hlt : s.pixelOffset s.pixelX s.pixelY + s.bpp ≤ s.fb.zeroed := (pixelOffset_add_bpp_le hr).trans (h.cleared (.inl hp))
    cases hf : s.fmt8 with
    | true =>
      have hbpp : s.bpp = 1 := by simp [State.bpp, hf]
      exact
        { h with
          fbWf := Fb.write_wf h.fbWf _ _
          fbListed := Fb.write_listed h.fbListed (show _ < s.fb.zeroed by omega) }
    | false =>
      have hbpp : s.bpp = 2 := by simp [State.bpp, hf]
      exact
        { h with
          fbWf := Fb.write16_wf h.fbWf _ _
          fbListed := 
            Fb.write_listed (Fb.write_listed h.fbListed (show _ < s.fb.zeroed by omega)) (show _ < s.fb.zeroed by omega) }

theorem HostEffect.inv {s t : State} (he : HostEffect s t) (h : s.Inv) : t.Inv := by
  cases he with
  | returned | raised | pixX | pixY | pixColor => exact { h with }
  | ignored => exact h
  | setup hp => exact h.startSetup hp
  | update hp => exact h.startUpdate hp
  | pixel t hp hd => exact h.drawPixel hp hd
  | cfgWidth hp | cfgHeight hp | cfgColstart hp | cfgRowstart hp | cfgMode hp => exact h.configWrite hp _ _ _ _ _

/-! ## The sequencer -/

/-- A record leaves the plan on course: it is the next one that Validate() passed, so `pc` comes to stand where the loop of
Validate() goes on, and no 16-bit sum wraps (R12, R181). -/
theorem State.Inv.record {s : State} (h : s.Inv) {r : Record} {bs : List Byte} {ms : List Micro}
    (hp : s.pending = .playNext :: ms) (hl : s.recLeft ≠ 0)
    (hd : decodeRecord (s.rom.drop s.pc.toNat) = .ok (r, bs)) :
    ({ s with pending := .recordDone :: .playNext :: ms }.begin .sel (recordRest r)).Inv := by
  obtain ⟨v, hv, hends⟩ := h.head hp
  obtain ⟨⟨hcs, hph, hscan⟩, rfl⟩ := Plan.next_playNext_iff.1 hv
  have hph : s.phase = .playingInit := hph
  have hscan : scanRecords s.rom s.recLeft.toNat s.pc.toNat = some s.rom.length := hscan
  have hlen := validate_length (h.valid_of_busy (Plan.next_busy hv)).2
  obtain ⟨k, hk⟩ : ∃ k, s.recLeft.toNat = k + 1 :=
    Nat.exists_eq_succ_of_ne_zero fun h0 => hl (BitVec.eq_of_toNat_eq h0)
  rw [hk] at hscan
  obtain ⟨h1, h2, h3⟩ := scanRecords_succ.1 hscan
  obtain ⟨r', hr', hlen'⟩ := decodeRecord_at h1 h2
  obtain ⟨rfl, rfl⟩ : r' = r ∧ _ = bs := by simpa [hr'] using hd
  have hpc : (s.pc + BitVec.ofNat 16 (2 + r'.args.length + r'.delay.toList.length)).toNat =
      s.pc.toNat + recordLen (romByte s.rom (s.pc.toNat + 1)) := by
    rw [BitVec.toNat_add, BitVec.toNat_ofNat, hlen']; omega
  have hleft : (s.recLeft - 1).toNat = k := by bv_omega
  have hloop : Plan.Ends s.rom { s.plan with
      pc := s.pc + BitVec.ofNat 16 (2 + r'.args.length + r'.delay.toList.length), left := s.recLeft - 1 }
      (.playNext :: ms) :=
    Plan.ends_cons.2 ⟨_, Plan.next_playNext_iff.2 ⟨⟨hcs, hph, by rw [hpc, hleft]; exact h3⟩, rfl⟩, hends⟩
  exact h.begin hcs (Plan.after_record r' hcs hph) (Plan.ends_cons.2 ⟨_, if_pos ⟨hcs, hph⟩, hloop⟩)

/-- The end of playback: GEOM_* take the resolved geometry, and `pc` stands at the script's end (R186, R229). -/
theorem State.Inv.loopEnd {s : State} (h : s.Inv) {ms : List Micro} (hp : s.pending = .playNext :: ms)
    (hl : s.recLeft = 0) : ({ s.resolve with pending := ms } : State).Inv := by
  obtain ⟨v, hv, hends⟩ := h.head hp
  obtain ⟨⟨-, hph, hscan⟩, rfl⟩ := Plan.next_playNext_iff.1 hv
  have hph : s.phase = .playingInit := hph
  have hscan : scanRecords s.rom s.recLeft.toNat s.pc.toNat = some s.rom.length := hscan
  have hpc : BitVec.ofNat 16 s.rom.length = s.pc := by
    rw [hl] at hscan
    rw [← Option.some.inj hscan]
    exact BitVec.eq_of_toNat_eq (Nat.mod_eq_of_lt s.pc.isLt)
  rw [hpc, ← hl] at hends
  exact
    { h with
      plan := hends
      geometryUnset := nofun
      geometrySet := fun _ => rfl
      valid := fun _ _ => h.valid_of_busy (Plan.next_busy hv)
      cleared := by simp }

/-- The end of an operation: READY, with the active part of FB cleared (R232, R233). -/
theorem State.Inv.enter {s : State} (h : s.Inv) {ph : Phase} {ms : List Micro} (hp : s.pending = .enter ph :: ms) :
    ({ s with pending := ms, phase := ph } : State).Inv := by
  obtain ⟨v, hv, hends⟩ := h.head hp
  obtain ⟨rfl, rfl, hph⟩ := Plan.next_enter hv
  have hset : s.geom = s.resolveGeometry := h.geometrySet (by
    obtain ⟨hph, -⟩ | hph := hph <;> rw [show s.phase = _ from hph] <;> rfl)
  have hcleared : s.activeLen ≤ s.fb.zeroed := by
    obtain ⟨-, hc⟩ | hph := hph
    · rw [State.activeLen, hset]; exact of_decide_eq_true hc
    · exact h.cleared (.inr hph)
  exact
    { h with
      plan := hends
      geometryUnset := nofun
      geometrySet := fun _ => hset
      valid := fun _ _ => h.valid_of_busy (Plan.next_busy hv)
      cleared := fun _ => hcleared }

theorem State.Inv.count {s : State} (h : s.Inv) {n : Byte} {bs : List Byte} {ms : List Micro}
    (hp : s.pending = .playCount :: ms) (hr : s.rom = n :: bs) :
    ({ s with pending := ms, phase := .playingInit, recLeft := n, pc := 1 } : State).Inv := by
  obtain ⟨v, hv, hends⟩ := h.head hp
  obtain ⟨hph, n', bs', hr', rfl⟩ := Plan.next_playCount hv
  have hph : s.phase = .resetting := hph
  obtain ⟨rfl, rfl⟩ : n = n' ∧ bs = bs' := by simpa [hr] using hr'
  exact
    { h with
      plan := hends
      geometryUnset := fun _ => h.geometryUnset (by rw [hph]; rfl)
      geometrySet := nofun
      valid := fun _ _ => h.valid_of_busy (Plan.next_busy hv)
      cleared := by simp }

/-- The buffer clear: no entry is left below the cleared length, and the cleared part still lies within P_BUF_BYTES (R232). -/
theorem State.Inv.clear {s : State} (h : s.Inv) {ms : List Micro} (hp : s.pending = .clearFb :: ms)
    (hc : s.resolveGeometry.bytes s.bpp ≤ s.par.bufBytes) :
    ({ s with pending := ms, fb := s.fb.clear (s.resolveGeometry.bytes s.bpp) } : State).Inv := by
  obtain ⟨v, hv, hends⟩ := h.head hp
  obtain ⟨rfl, -⟩ := Plan.next_clearFb hv
  have hplan : ({ s with pending := ms, fb := s.fb.clear (s.resolveGeometry.bytes s.bpp) } : State).plan =
      { s.plan with cleared := true } := by
    simp only [State.plan, Plan.mk.injEq, decide_eq_true_eq, true_and, and_true]
    exact Nat.le_max_right _ _
  exact
    { h with
      fbWf := Fb.clear_wf h.fbWf _
      fbListed := fun c hcm => (h.fbListed c (List.mem_of_mem_filter hcm)).trans_le (Nat.le_max_left _ _)
      fbCapacity := Nat.max_le.2 ⟨h.fbCapacity, hc⟩
      plan := by rw [hplan]; exact hends
      cleared := fun hr => (h.cleared hr).trans (Nat.le_max_left _ _) }

theorem SequencerEffect.inv {s t : State} (he : SequencerEffect s t) (h : s.Inv) : t.Inv := by
  cases he with
  | idle => exact h
  | emit e ms hp =>
    obtain ⟨v, hv, hends⟩ := h.head hp
    obtain ⟨rfl, hallowed, -⟩ := Plan.next_emit hv
    exact h.emit hallowed hends
  | enter ph ms hp => exact h.enter hp
  | count n bs ms hp hr => exact h.count hp hr
  | loopEnd ms hp hl => exact h.loopEnd hp hl
  | record r bs ms hp hl hd => exact h.record hp hl hd
  | delay d ms hp =>
    obtain ⟨v, hv, hends⟩ := h.head hp
    obtain ⟨rfl, hcs, -⟩ := Plan.next_delay hv
    exact h.emit hcs hends
  | advance n ms hp =>
    obtain ⟨v, hv, hends⟩ := h.head hp
    obtain ⟨rfl, -⟩ := Plan.next_advance hv
    exact { h with plan := hends }
  | recordDone ms hp =>
    obtain ⟨v, hv, hends⟩ := h.head hp
    obtain ⟨rfl, -⟩ := Plan.next_recordDone hv
    exact { h with plan := hends }
  | caset ms hp | raset ms hp | ramwr ms hp =>
    obtain ⟨v, hv, hends⟩ := h.head hp
    obtain ⟨rfl, hcs, -⟩ := Plan.next_updateFrame hv (by simp)
    exact h.begin (by rw [hcs]; rfl) (Plan.after_dataMicros _ hcs (Plan.next_busy hv)) hends
  | madctl ms hp =>
    obtain ⟨v, hv, hends⟩ := h.head hp
    obtain ⟨rfl, hcs, -⟩ := Plan.next_setupFrame hv (by simp)
    exact h.begin hcs (Plan.after_transaction _ [s.modeByte] hcs (Plan.next_busy hv)) hends
  | invon ms hp =>
    obtain ⟨v, hv, hends⟩ := h.head hp
    obtain ⟨rfl, hcs, -⟩ := Plan.next_setupFrame hv (by simp)
    exact h.begin hcs (Plan.after_transaction _ [] hcs (Plan.next_busy hv)) hends
  | clear ms hp hc => exact h.clear hp hc

/-! ## Reset and every step -/

/-- The reset values satisfy the invariant, whatever FB holds unlisted, under any legal parameters and with any script and
host side (R54, R360). -/
theorem resetValues_inv {p : Config.Params} (hp : p.Legal) (epoch : Nat) (rom : List Byte)
    (history : List (List WireEvent)) (ops : List HostOp) (ts : List Turn) (reads : List Word) :
    ({ State.reset with
      fb := ⟨[], 0, epoch⟩, rom := rom, par := p, history := history, hostProgram := ops, agenda := ts
      hostReads := reads } : State).Inv where
  legal := hp
  fbWf := rfl
  fbListed := nofun
  fbCapacity := Nat.zero_le _
  plan := ⟨_, rfl, rfl, rfl, rfl⟩
  geometryUnset := fun _ => rfl
  geometrySet := nofun
  valid := fun hu => absurd rfl hu
  cleared := by simp [State.reset]
  framed := rfl

theorem State.Inv.blockReset {s : State} (h : s.Inv) : s.blockReset.Inv := resetValues_inv h.legal _ _ _ _ _ _

/-- The reset parameters are within the bounds of R10 and R11, whatever the OPEN ones are. -/
theorem params_legal : Config.params.Legal := by
  have hc := Config.physColsLessOne.isLt
  have hr := Config.physRowsLessOne.isLt
  refine ⟨⟨Nat.le_add_left 1 _, ?_⟩, ⟨Nat.le_add_left 1 _, ?_⟩, by decide, by decide⟩
  · show Config.physColsLessOne.val + 1 ≤ 65535; omega
  · show Config.physRowsLessOne.val + 1 ≤ 65535; omega

/-- Settles O41: the reset values under parameters that are legal whatever the OPEN ones of R10 are. -/
theorem resetSatisfiesTheInvariant : Obligations.ResetSatisfiesTheInvariant := resetValues_inv params_legal _ _ _ _ _ _

/-- Settles O42: each kind of turn that `step_cases` lists keeps the invariant. -/
theorem everyStepKeepsTheInvariant : Obligations.EveryStepKeepsTheInvariant := by
  intro s t h hstep
  rcases step_cases hstep with ⟨-, rfl⟩ | ⟨ts, -, rfl⟩ | ⟨ts, -, rfl⟩ | ⟨ts, ps, -, -, he⟩ | ⟨ts, -, he⟩
  · exact h
  · exact { h with }
  · exact State.Inv.blockReset (s := { s with agenda := ts }) { h with }
  · exact he.inv { h with }
  · exact he.inv { h with }

end Sys2Proof.Machine
end

section
/-! The registers: what reset and COUNT load, a write of CMD as the operation it decodes to, and which steps may change the
ERR bits and the geometry configuration. -/

namespace Sys2Proof.Machine

/-! ## Reset and COUNT -/

/-- Settles O40: reset writes each value, and its FB lists no byte and has none cleared. -/
theorem resetLeavesTheSpecifiedValues : Obligations.ResetLeavesTheSpecifiedValues :=
  ⟨rfl, rfl, rfl, rfl, rfl, rfl, rfl, rfl, rfl, rfl, rfl, rfl, rfl, rfl, rfl, rfl, rfl, rfl, 0, fun _ => rfl⟩

/-- The sequencer's step at the head of Play() is COUNT with the script's header, executed from playback's start. -/
theorem step_playCount {s : State} {ts : List Turn} {ms : List Micro} {n : Byte} {bs : List Byte}
    (ha : s.agenda = .sequencer :: ts) (hp : s.pending = .playCount :: ms) (hr : s.rom = n :: bs) :
    step s = exec (.count n) { s with agenda := ts, pending := ms, phase := .playingInit, pc := 0 } := by
  simp only [step_eq, State.fetch, ha, State.fetchSequencer, hp, hr, runFetched, decodeCount, State.startPlayback]

/-- Settles O25: COUNT's own effect, and the step that performs it. -/
theorem countLoadsTheHeader : Obligations.CountLoadsTheHeader := by
  refine ⟨fun _ _ => rfl, fun s ts ms n bs ha hp hr => ?_⟩
  have hstep := step_playCount ha hp hr
  exact ⟨hstep, hstep⟩

/-! ## The command port -/

/-- An operation code that R113 reserves is rejected, for BUSY first (R321, R323). -/
theorem command_reserved {op : Byte} (s : State) (h : ¬(op = 0x01 ∨ op = 0x02 ∨ op = 0x03)) :
    s.command op = .next (s.raise (if s.phase.busy then .busy else .op)) := by
  unfold State.command State.acceptance
  rw [if_pos h]
  cases s.phase.busy <;> rfl

/-- Settles O16: by the operation code, the three of R112 or a reserved one. -/
theorem commandWriteRunsDecodedOperation : Obligations.CommandWriteRunsDecodedOperation := by
  intro s v
  show s.command (opField v) = _
  unfold decodeHostCmd
  split
  · next h => rw [show opField v = 0x01 from BitVec.eq_of_toNat_eq h]; rfl
  · next h => rw [show opField v = 0x02 from BitVec.eq_of_toNat_eq h]; rfl
  · next h => rw [show opField v = 0x03 from BitVec.eq_of_toNat_eq h]; rfl
  · next h1 h2 h3 =>
    refine command_reserved s ?_
    rintro (h | h | h)
    · exact h1 (by rw [h]; rfl)
    · exact h2 (by rw [h]; rfl)
    · exact h3 (by rw [h]; rfl)

/-! ## The ERR bits (R36, R320 to R322) -/

theorem drawPixel_err {s t : State} (h : s.drawPixel = .next t) : t.err = s.err := by
  rcases drawPixel_next h with ⟨-, rfl⟩ | ⟨-, -, rfl⟩ <;> rfl

/-- The host sets an ERR bit by a rejected access or a SETUP that fails its validation, one bit in each case. -/
theorem HostEffect.err_eq_or_set {s t : State} (h : HostEffect s t) :
    t.err = s.err ∨ ∃ e : Err, t.err = s.err ||| e.mask := by
  cases h with
  | raised e => exact .inr ⟨e, rfl⟩
  | setup =>
    rcases startSetup_cases s with ⟨-, hs⟩ | ⟨-, -, hs⟩ | ⟨-, -, hs⟩ <;> rw [hs]
    · exact .inr ⟨.config, rfl⟩
    · exact .inr ⟨.script, rfl⟩
    · exact .inl rfl
  | pixel _ _ hd => exact .inl (drawPixel_err hd)
  | returned | ignored | update | cfgWidth | cfgHeight | cfgColstart | cfgRowstart | cfgMode | pixX | pixY
  | pixColor => exact .inl rfl

/-- The sequencer raises no error. -/
theorem SequencerEffect.err_eq {s t : State} (h : SequencerEffect s t) : t.err = s.err := by cases h <;> rfl

/-- Settles O46: each kind of turn that `step_cases` lists, with the ERR bits its effect leaves. -/
theorem errorBitsAreSticky : Obligations.ErrorBitsAreSticky := by
  intro s t h
  rcases step_cases h with ⟨ha, rfl⟩ | ⟨ts, ha, rfl⟩ | ⟨ts, ha, rfl⟩ | ⟨ts, ps, ha, -, he⟩ | ⟨ts, ha, he⟩
  · simp [ha]
  · simp [ha]
  · simp [ha]
  · have ht : t.err = s.err ∨ ∃ e : Err, t.err = s.err ||| e.mask := he.err_eq_or_set
    simpa [ha] using ht
  · have ht : t.err = s.err := he.err_eq
    simp [ha, ht]

/-! ## The configuration and the geometry (R42, R48, R55) -/

/-- The CFG_* registers as one value. -/
def State.config (s : State) : Half × Half × Half × Half × BitVec 6 :=
  (s.cfgWidth, s.cfgHeight, s.cfgColstart, s.cfgRowstart, s.cfgMode)

theorem config_eq_iff {s t : State} :
    t.config = s.config ↔ t.cfgWidth = s.cfgWidth ∧ t.cfgHeight = s.cfgHeight ∧ t.cfgColstart = s.cfgColstart ∧
      t.cfgRowstart = s.cfgRowstart ∧ t.cfgMode = s.cfgMode := by
  simp only [State.config, Prod.mk.injEq]

/-- Outside UNINIT a write of a CFG_* register is rejected, and no other access writes one (R55, R236). -/
theorem HostEffect.config_eq {s t : State} (h : HostEffect s t) (hp : s.phase ≠ .uninit) : t.config = s.config := by
  cases h with
  | setup hu | cfgWidth hu | cfgHeight hu | cfgColstart hu | cfgRowstart hu | cfgMode hu => exact absurd hu hp
  | pixel _ _ hd => rcases drawPixel_next hd with ⟨-, rfl⟩ | ⟨-, -, rfl⟩ <;> rfl
  | returned | ignored | raised | update | pixX | pixY | pixColor => rfl

theorem SequencerEffect.config_eq {s t : State} (h : SequencerEffect s t) : t.config = s.config := by cases h <;> rfl

theorem HostEffect.geom_eq {s t : State} (h : HostEffect s t) : t.geom = s.geom := by
  cases h with
  | setup => rcases startSetup_cases s with ⟨-, hs⟩ | ⟨-, -, hs⟩ | ⟨-, -, hs⟩ <;> rw [hs] <;> rfl
  | pixel _ _ hd => rcases drawPixel_next hd with ⟨-, rfl⟩ | ⟨-, -, rfl⟩ <;> rfl
  | returned | ignored | raised | update | cfgWidth | cfgHeight | cfgColstart | cfgRowstart | cfgMode | pixX | pixY
  | pixColor => rfl

/-- GEOM_* are written at the end of playback alone, which the plan has in PLAYING_INIT (R229). -/
theorem SequencerEffect.geom_eq {s t : State} (he : SequencerEffect s t) (h : s.Inv)
    (hg : s.phase.beforeGeometry = false) : t.geom = s.geom := by
  cases he with
  | loopEnd ms hp =>
    obtain ⟨v, hv, -⟩ := h.head hp
    have hph : s.phase = .playingInit := (Plan.next_playNext_iff.1 hv).1.2.1
    rw [hph] at hg
    cases hg
  | idle | emit | enter | count | record | delay | advance | recordDone | caset | raset | ramwr | madctl | invon
  | clear => rfl

/-- Settles O47: each kind of turn but the block reset that `step_cases` lists, with the registers its effect leaves. -/
theorem configurationIsLocked : Obligations.ConfigurationIsLocked := by
  intro s t h hstep hr
  rw [← config_eq_iff]
  rcases step_cases hstep with ⟨-, rfl⟩ | ⟨ts, -, rfl⟩ | ⟨ts, ha, -⟩ | ⟨ts, ps, -, -, he⟩ | ⟨ts, -, he⟩
  · exact ⟨fun _ => rfl, fun _ => rfl⟩
  · exact ⟨fun _ => rfl, fun _ => rfl⟩
  · simp [ha] at hr
  · exact ⟨he.config_eq, fun _ => he.geom_eq⟩
  · exact ⟨fun _ => he.config_eq, he.geom_eq { h with }⟩

end Sys2Proof.Machine
end

section
/-! R56: the content of FB between block reset and SETUP's clear is unspecified, and nothing a step does depends on it. A step
reads and writes FB below the cleared length alone, where an unlisted byte is 0 whatever the epoch. -/

namespace Sys2Proof.Machine

/-! ## The pixel buffer -/

/-- A pixel buffer whose uncleared bytes are those of another block reset. -/
def Fb.withEpoch (e : Nat) (m : Fb) : Fb := { m with epoch := e }

@[simp] theorem withEpoch_fb (s : State) (e : Nat) : (s.withEpoch e).fb = s.fb.withEpoch e := rfl

theorem Fb.unlisted_withEpoch {m : Fb} {a : Nat} (h : a < m.zeroed) (e : Nat) :
    (m.withEpoch e).unlisted a = m.unlisted a := by
  rw [Fb.unlisted, Fb.unlisted, if_pos h]
  exact if_pos h

theorem Fb.read_withEpoch {m : Fb} {a : Nat} (h : a < m.zeroed) (e : Nat) : (m.withEpoch e).read a = m.read a := by
  rw [Fb.read, Fb.unlisted_withEpoch h]
  rfl

theorem Fb.write_withEpoch {m : Fb} {a : Nat} (h : a < m.zeroed) (e : Nat) (v : Byte) :
    (m.withEpoch e).write a v = (m.write a v).withEpoch e := by
  rw [Fb.write, Fb.unlisted_withEpoch h]
  rfl

theorem Fb.write16_withEpoch {m : Fb} {a : Nat} (h : a + 1 < m.zeroed) (e : Nat) (v : Half) :
    (m.withEpoch e).write16 a v = (m.write16 a v).withEpoch e := by
  rw [Fb.write16, Fb.write_withEpoch (Nat.lt_of_succ_lt h), Fb.write_withEpoch (show a + 1 < (m.write a _).zeroed from h)]
  rfl

/-- The pixel stream lies within the active part of FB, which SETUP has cleared (R296). -/
theorem pixelStream_withEpoch {s : State} (h : s.activeLen ≤ s.fb.zeroed) (e : Nat) :
    (s.withEpoch e).pixelStream = s.pixelStream := by
  refine List.flatMap_congr fun p hp => ?_
  have hp : p < s.geomWidth.toNat * s.geomHeight.toNat := List.mem_range.1 hp
  have hlen : s.geomWidth.toNat * s.geomHeight.toNat * s.bpp ≤ s.fb.zeroed := h
  unfold State.pixelBytes
  show (if s.fmt8 = true then _ else _) = _
  cases hf : s.fmt8 with
  | true =>
    have hbpp : s.bpp = 1 := by simp [State.bpp, hf]
    rw [hbpp] at hlen
    simp only [if_true, withEpoch_fb, Fb.read_withEpoch (show p < s.fb.zeroed by omega)]
  | false =>
    have hbpp : s.bpp = 2 := by simp [State.bpp, hf]
    rw [hbpp] at hlen
    simp only [Bool.false_eq_true, if_false, withEpoch_fb, Fb.read16,
      Fb.read_withEpoch (show 2 * p < s.fb.zeroed by omega), Fb.read_withEpoch (show 2 * p + 1 < s.fb.zeroed by omega)]

/-! ## The host's turn -/

/-- An outcome with the uncleared bytes of its next state replaced; a stop holds no state. -/
def outcomeWithEpoch (e : Nat) : Host.Outcome State Fault Refusal → Host.Outcome State Fault Refusal
  | .next t => .next (t.withEpoch e)
  | .fault f => .fault f
  | .refused r => .refused r

/-- An accepted SET_PIXEL writes within the active part of FB (R263, R265). -/
theorem drawPixel_withEpoch {s : State} (h : s.activeLen ≤ s.fb.zeroed) (e : Nat) :
    (s.withEpoch e).drawPixel = outcomeWithEpoch e s.drawPixel := by
  unfold State.drawPixel
  show (if s.inRange s.pixelX s.pixelY = false then _ else if s.pixelOffset s.pixelX s.pixelY + s.bpp ≤ s.par.bufBytes
    then _ else _) = _
  by_cases hr : s.inRange s.pixelX s.pixelY = false
  · rw [if_pos hr, if_pos hr]; rfl
  by_cases hb : s.pixelOffset s.pixelX s.pixelY + s.bpp ≤ s.par.bufBytes
  swap
  · rw [if_neg hr, if_neg hr, if_neg hb, if_neg hb]; rfl
  have hlt : s.pixelOffset s.pixelX s.pixelY + s.bpp ≤ s.fb.zeroed :=
    (pixelOffset_add_bpp_le (Bool.not_eq_false _ |>.mp hr)).trans h
  rw [if_neg hr, if_neg hr, if_pos hb, if_pos hb]
  show Host.Outcome.next { s with fb := if s.fmt8 = true then _ else _ } = .next { s with fb := Fb.withEpoch e _ }
  cases hf : s.fmt8 with
  | true =>
    have hbpp : s.bpp = 1 := by simp [State.bpp, hf]
    have hlt' : s.pixelOffset s.pixelX s.pixelY < s.fb.zeroed := by omega
    exact congrArg (fun m => Host.Outcome.next { s with fb := m }) (Fb.write_withEpoch hlt' e _)
  | false =>
    have hbpp : s.bpp = 2 := by simp [State.bpp, hf]
    have hlt' : s.pixelOffset s.pixelX s.pixelY + 1 < s.fb.zeroed := by omega
    exact congrArg (fun m => Host.Outcome.next { s with fb := m }) (Fb.write16_withEpoch hlt' e _)

theorem startSetup_withEpoch (s : State) (e : Nat) : (s.withEpoch e).startSetup = s.startSetup.withEpoch e := by
  unfold State.startSetup
  show (if s.geometryValid s.resolveGeometry = false then _ else if validate s.rom = false then _ else _) = _
  split
  · rfl
  · split <;> rfl

theorem command_withEpoch {s : State} (h : s.phase = .ready → s.activeLen ≤ s.fb.zeroed) (op : Byte) (e : Nat) :
    (s.withEpoch e).command op = outcomeWithEpoch e (s.command op) := by
  unfold State.command
  rw [show (s.withEpoch e).acceptance op = s.acceptance op from rfl]
  cases ha : s.acceptance op with
  | some err => rfl
  | none =>
    obtain ⟨rfl, -⟩ | ⟨rfl | rfl, hp⟩ := acceptance_eq_none ha
    · exact congrArg Host.Outcome.next (startSetup_withEpoch s e)
    · rfl
    · exact drawPixel_withEpoch (h hp) e

theorem readOnlyAccess_withEpoch (v : Word) (a : Access) (s : State) (e : Nat) :
    readOnlyAccess v a (s.withEpoch e) = outcomeWithEpoch e (readOnlyAccess v a s) := by
  cases a <;> rfl

theorem configAccess_withEpoch {s : State} {written written' : Word → State} (v : Word) (a : Access) (e : Nat)
    (hw : ∀ x, written' x = (written x).withEpoch e) :
    configAccess v a written' (s.withEpoch e) = outcomeWithEpoch e (configAccess v a written s) := by
  cases a with
  | read => rfl
  | write x =>
    show (if s.phase = .uninit then Host.Outcome.next (written' x) else _) = _
    rw [configAccess, hw]
    split <;> rfl

theorem stagingAccess_withEpoch {s : State} {written written' : Word → State} (v : Word) (a : Access) (e : Nat)
    (hw : ∀ x, written' x = (written x).withEpoch e) :
    stagingAccess v a written' (s.withEpoch e) = outcomeWithEpoch e (stagingAccess v a written s) := by
  cases a with
  | read => rfl
  | write x => exact congrArg Host.Outcome.next (hw x)

/-- A host instruction does the same whatever the uncleared bytes hold: SET_PIXEL alone touches FB, and in READY the active
part is cleared. -/
theorem exec_host_withEpoch {i : Instr} (hi : isHostInstr i) {s : State}
    (h : s.phase = .ready → s.activeLen ≤ s.fb.zeroed) (e : Nat) :
    exec i (s.withEpoch e) = outcomeWithEpoch e (exec i s) := by
  cases i with
  | setup | update | setPixel => exact command_withEpoch h _ e
  | reservedOp => rfl
  | regCmd a =>
    cases a with
    | read => rfl
    | write v => exact command_withEpoch h _ e
  | regStatus | regGeomWidth | regGeomHeight | regGeomColstart | regGeomRowstart | regReserved38 | regReserved3C =>
    exact readOnlyAccess_withEpoch _ _ s e
  | regCfgWidth | regCfgHeight | regCfgColstart | regCfgRowstart | regCfgMode =>
    exact configAccess_withEpoch _ _ e fun _ => rfl
  | regPixX | regPixY | regPixColor => exact stagingAccess_withEpoch _ _ e fun _ => rfl
  | count | recPlain | recD | dly500 | dlyMs | caset | raset | ramwr | madctl | invon => rcases hi with hi | hi <;> cases hi

theorem fetchHost_withEpoch {s : State} (h : s.phase = .ready → s.activeLen ≤ s.fb.zeroed) (e : Nat) :
    runFetched (s.withEpoch e).fetchHost = outcomeWithEpoch e (runFetched s.fetchHost) := by
  have hprog : (s.withEpoch e).hostProgram = s.hostProgram := rfl
  rcases hp : s.hostProgram with _ | ⟨a | _, rest⟩ <;> simp only [State.fetchHost, hprog, hp]
  · rfl
  · cases hd : decodeHostReg a with
    | error => rfl
    | ok i =>
      exact exec_host_withEpoch (s := { s with hostProgram := rest }) (decodeHostReg_isHostInstr hd) h e
  · rw [show (s.withEpoch e).status = s.status from rfl]
    split <;> rfl

/-! ## The sequencer's turn -/

/-- The sequencer does the same whatever the uncleared bytes hold: RAMWR alone reads FB, in TRANSMITTING, where the active
part is cleared. -/
theorem SequencerEffect.withEpoch {s t : State} (he : SequencerEffect s t) (h : s.Inv) (e : Nat) :
    SequencerEffect (s.withEpoch e) (t.withEpoch e) := by
  cases he with
  | idle hp => exact .idle hp
  | emit ev ms hp => exact .emit (s := s.withEpoch e) ev ms hp
  | enter ph ms hp => exact .enter (s := s.withEpoch e) ph ms hp
  | count n bs ms hp hr => exact .count (s := s.withEpoch e) n bs ms hp hr
  | loopEnd ms hp hl => exact .loopEnd (s := s.withEpoch e) ms hp hl
  | record r bs ms hp hl hd => exact .record (s := s.withEpoch e) r bs ms hp hl hd
  | delay d ms hp => exact .delay (s := s.withEpoch e) d ms hp
  | advance n ms hp => exact .advance (s := s.withEpoch e) n ms hp
  | recordDone ms hp => exact .recordDone (s := s.withEpoch e) ms hp
  | caset ms hp => exact .caset (s := s.withEpoch e) ms hp
  | raset ms hp => exact .raset (s := s.withEpoch e) ms hp
  | ramwr ms hp hc =>
    obtain ⟨v, hv, -⟩ := h.head hp
    have hph : s.phase = .transmitting := (Plan.next_updateFrame hv (by simp)).2.2
    have heff := SequencerEffect.ramwr (s := s.withEpoch e) ms hp hc
    rw [pixelStream_withEpoch (h.cleared (.inr hph))] at heff
    exact heff
  | madctl ms hp => exact .madctl (s := s.withEpoch e) ms hp
  | invon ms hp => exact .invon (s := s.withEpoch e) ms hp
  | clear ms hp hc => exact .clear (s := s.withEpoch e) ms hp hc

/-! ## One step -/

/-- The agenda and the uncleared bytes are replaced independently. -/
theorem withEpoch_withAgenda (s : State) (e : Nat) (ts : List Turn) :
    { s.withEpoch e with agenda := ts } = ({ s with agenda := ts } : State).withEpoch e := rfl

theorem step_host {s : State} {ts : List Turn} (ha : s.agenda = .host :: ts) :
    step s = runFetched ({ s with agenda := ts } : State).fetchHost := by
  rw [step_eq, State.fetch, ha]

theorem step_sequencer {s : State} {ts : List Turn} (ha : s.agenda = .sequencer :: ts) :
    step s = runFetched ({ s with agenda := ts } : State).fetchSequencer := by
  rw [step_eq, State.fetch, ha]

theorem step_stall {s : State} {ts : List Turn} (ha : s.agenda = .stall :: ts) :
    step s = .next { s with agenda := ts } := by
  rw [step_eq, State.fetch, ha]
  rfl

theorem step_agenda_nil {s : State} (ha : s.agenda = []) : step s = .next s := by
  rw [step_eq, State.fetch, ha]
  rfl

/-- Settles O52: by whose turn it is; the host's turn answers the same outcome, the sequencer's the same effect. -/
theorem unspecifiedBufferIsUnobservable : Obligations.UnspecifiedBufferIsUnobservable := by
  intro s e h hreset
  rcases ha : s.agenda with _ | ⟨turn, ts⟩
  · rw [step_agenda_nil ha, step_agenda_nil (s := s.withEpoch e) ha]
    exact ⟨fun t ht => by cases ht; rfl, fun r hr => by cases hr⟩
  · cases turn with
    | host =>
      have hstep : step (s.withEpoch e) = outcomeWithEpoch e (step s) := by
        rw [step_host ha, step_host (s := s.withEpoch e) ha, withEpoch_withAgenda]
        exact fetchHost_withEpoch (s := { s with agenda := ts }) (fun hp => h.cleared (.inl hp)) e
      exact ⟨fun t ht => by rw [hstep, ht]; rfl, fun r hr => by rw [hstep, hr]; rfl⟩
    | sequencer =>
      rw [step_sequencer ha, step_sequencer (s := s.withEpoch e) ha, withEpoch_withAgenda]
      obtain ⟨t, ht, he⟩ | ⟨f, hf, -⟩ := sequencer_cases { s with agenda := ts }
      · rw [ht, (he.withEpoch { h with } e).next]
        exact ⟨fun t' ht' => by cases ht'; rfl, fun r hr => by cases hr⟩
      · rw [hf]
        exact ⟨fun t ht => (by cases ht), fun r hr => (by cases hr)⟩
    | stall =>
      rw [step_stall ha, step_stall (s := s.withEpoch e) ha]
      exact ⟨fun t ht => by cases ht; rfl, fun r hr => by cases hr⟩
    | blockReset => simp [ha] at hreset

end Sys2Proof.Machine
end

section
/-! The host's side and the sequencer's (R85, R96 to R98, R101, R326): a step by what the turn reads, what each side's effects
leave unchanged, and that neither side disturbs the other. -/

namespace Sys2Proof.Machine

/-! ## The host's turn, by the head of its program -/

theorem step_host_end {s : State} {ts : List Turn} (ha : s.agenda = .host :: ts) (hp : s.hostProgram = []) :
    step s = .next { s with agenda := ts } := by
  simp only [step_host ha, State.fetchHost, hp, runFetched]

theorem step_host_access {s : State} {ts : List Turn} {a : HostAccess} {i : Instr} {rest : List HostOp}
    (ha : s.agenda = .host :: ts) (hp : s.hostProgram = .access a :: rest) (hd : decodeHostReg a = .ok i) :
    step s = exec i { s with agenda := ts, hostProgram := rest } := by
  simp only [step_host ha, State.fetchHost, hp, hd, runFetched]

theorem step_host_refused {s : State} {ts : List Turn} {a : HostAccess} {e : DecodeError} {rest : List HostOp}
    (ha : s.agenda = .host :: ts) (hp : s.hostProgram = .access a :: rest) (hd : decodeHostReg a = .error e) :
    step s = .refused (refusalOf e) := by
  simp only [step_host ha, State.fetchHost, hp, hd, runFetched]

/-- Bit 3 of the value read decides whether `wait_idle` is done, and that bit is BUSY (R33, R134). -/
theorem step_host_waitIdle {s : State} {ts : List Turn} {rest : List HostOp} (ha : s.agenda = .host :: ts)
    (hp : s.hostProgram = .waitIdle :: rest) :
    step s = exec (.regStatus .read)
      (if s.phase.busy then { s with agenda := ts } else { s with agenda := ts, hostProgram := rest }) := by
  simp only [step_host ha, State.fetchHost, hp, runFetched, status_bit3]

/-- Settles O5: the equations of the host's turn for an access that decodes and for `wait_idle`. -/
theorem stepRunsHostAccess : Obligations.StepRunsHostAccess :=
  fun _ _ _ ha => ⟨fun _ _ hp hd => step_host_access ha hp hd, step_host_waitIdle ha⟩

/-! ## Meaningless accesses (R82) -/

theorem decodeHostReg_subword {a : HostAccess} (hw : a.width ≠ .bits32) : decodeHostReg a = .error .subword := by
  unfold decodeHostReg
  split
  · rfl
  · rfl
  · contradiction

theorem decodeHostReg_misaligned {a : HostAccess} (hw : a.width = .bits32) (ho : a.offset.toNat % 4 ≠ 0) :
    decodeHostReg a = .error .misaligned := by
  cases hd : decodeHostReg a with
  | ok i => exact absurd ((decodeHostReg_ok_iff a).1 ⟨i, hd⟩).2 ho
  | error e =>
    obtain ⟨hw', -⟩ | ⟨-, -, rfl⟩ := decodeHostReg_error hd
    · exact absurd hw hw'
    · rfl

theorem exec_host_ne_refused {i : Instr} (hi : isHostInstr i) (s : State) (r : Refusal) : exec i s ≠ .refused r := by
  intro h
  obtain ⟨t, ht, -⟩ | ⟨f, hf, -⟩ := exec_host_cases hi s
  · rw [h] at ht; cases ht
  · rw [h] at hf; cases hf

/-- Settles O8: the decoder's answer in each of the three cases, and no decoded access is refused. -/
theorem meaninglessAccessIsRefused : Obligations.MeaninglessAccessIsRefused := by
  intro s ts rest a ha hp
  refine ⟨fun hw => step_host_refused ha hp (decodeHostReg_subword hw),
    fun hw ho => step_host_refused ha hp (decodeHostReg_misaligned hw ho), fun hw ho r => ?_⟩
  obtain ⟨i, hd⟩ := (decodeHostReg_ok_iff a).2 ⟨hw, ho⟩
  rw [step_host_access ha hp hd]
  exact exec_host_ne_refused (decodeHostReg_isHostInstr hd) _ r

/-! ## The sequencer's turn, by the head of `s.pending` -/

theorem step_sequencer_idle {s : State} {ts : List Turn} (ha : s.agenda = .sequencer :: ts) (hp : s.pending = []) :
    step s = .next { s with agenda := ts } := by
  simp only [step_sequencer ha, State.fetchSequencer, hp, runFetched]

theorem step_record {s : State} {ts : List Turn} {ms : List Micro} {r : Record} {bs : List Byte}
    (ha : s.agenda = .sequencer :: ts) (hp : s.pending = .playNext :: ms) (hl : s.recLeft ≠ 0)
    (hd : decodeRecord (s.rom.drop s.pc.toNat) = .ok (r, bs)) :
    step s = exec r.instr { s with agenda := ts, pending := .recordDone :: .playNext :: ms } := by
  simp only [step_sequencer ha, State.fetchSequencer, hp, if_neg hl, hd, runFetched]

theorem step_delay {s : State} {ts : List Turn} {ms : List Micro} {d : Byte}
    (ha : s.agenda = .sequencer :: ts) (hp : s.pending = .delay d :: ms) :
    step s = exec (decodeDelay d) { s with agenda := ts, pending := ms } := by
  simp only [step_sequencer ha, State.fetchSequencer, hp, runFetched]

theorem step_frame {s : State} {ts : List Turn} {ms : List Micro} {f : Frame}
    (ha : s.agenda = .sequencer :: ts) (hp : s.pending = .frame f :: ms) :
    step s = exec f.instr { s with agenda := ts, pending := ms } := by
  simp only [step_sequencer ha, State.fetchSequencer, hp, runFetched]

/-- Settles O6: the equation of the sequencer's turn at each place where it reads an instruction. -/
theorem stepRunsSequencerInstruction : Obligations.StepRunsSequencerInstruction :=
  fun _ _ _ ha =>
    ⟨fun _ _ hp hr => step_playCount ha hp hr, fun _ _ hp hl hd => step_record ha hp hl hd,
      fun _ hp => step_delay ha hp, fun _ hp => step_frame ha hp⟩

/-- Settles O9: the equation of the step in each of the four idle cases. -/
theorem idleStepsChangeNothing : Obligations.IdleStepsChangeNothing :=
  fun _ _ => ⟨step_agenda_nil, step_stall, step_sequencer_idle, step_host_end⟩

/-! ## Accesses beyond P_BUF_BYTES (R80, R263) -/

theorem acceptance_setPixel {s : State} (hp : s.phase = .ready) : s.acceptance 0x03 = none := by
  simp [State.acceptance, hp, Phase.busy]

theorem drawPixel_overrun {s : State} (hr : s.inRange s.pixelX s.pixelY = true)
    (hb : s.par.bufBytes < s.pixelOffset s.pixelX s.pixelY + s.bpp) : s.drawPixel = .fault .fbOutOfRange := by
  rw [State.drawPixel, if_neg (by rw [hr]; simp), if_neg (Nat.not_le_of_lt hb)]

theorem exec_setPixel_ready {s : State} (g : BitVec 24) (hp : s.phase = .ready) : exec (.setPixel g) s = s.drawPixel := by
  rw [exec_setPixel, execSetPixel, State.command, acceptance_setPixel hp]
  rfl

/-- Settles O23: each of the three operations checks its whole extent against P_BUF_BYTES before it does anything. -/
theorem bufferOverrunFaults : Obligations.BufferOverrunFaults := by
  refine ⟨fun s g hp hr hb => ?_, fun s hb => ?_, fun s ts ms ha hp hb => ?_⟩
  · rw [exec_setPixel_ready g hp, drawPixel_overrun hr hb]
  · rw [exec_ramwr, execRamwr, if_neg (Nat.not_le_of_lt hb)]
  · rw [step_sequencer ha]
    simp only [State.fetchSequencer, hp]
    exact congrArg runFetched (if_neg (Nat.not_le_of_lt hb))

/-! ## What the effects of each side leave unchanged -/

/-- The host's side of a state. -/
def State.hostSide (s : State) : HostSide := ⟨s.err, s.pixX, s.pixY, s.pixColor, s.hostProgram, s.hostReads⟩

theorem withHostSide_hostSide (s : State) : s.withHostSide s.hostSide = s := rfl

theorem SequencerEffect.hostSide_eq {s t : State} (h : SequencerEffect s t) : t.hostSide = s.hostSide := by
  cases h <;> rfl

theorem SequencerEffect.constants_eq {s t : State} (h : SequencerEffect s t) : t.rom = s.rom ∧ t.par = s.par := by
  cases h <;> exact ⟨rfl, rfl⟩

/-- No access writes the ROM or a parameter, and an access being executed does not touch the accesses after it. -/
theorem HostEffect.frame {s t : State} (h : HostEffect s t) :
    t.rom = s.rom ∧ t.par = s.par ∧ t.hostProgram = s.hostProgram := by
  cases h with
  | setup => rcases startSetup_cases s with ⟨-, hs⟩ | ⟨-, -, hs⟩ | ⟨-, -, hs⟩ <;> rw [hs] <;> exact ⟨rfl, rfl, rfl⟩
  | pixel _ _ hd => rcases drawPixel_next hd with ⟨-, rfl⟩ | ⟨-, -, rfl⟩ <;> exact ⟨rfl, rfl, rfl⟩
  | returned | ignored | raised | update | cfgWidth | cfgHeight | cfgColstart | cfgRowstart | cfgMode | pixX | pixY
  | pixColor => exact ⟨rfl, rfl, rfl⟩

/-- What reaches beyond the host's side asks for UNINIT or READY, which are not BUSY (R35, R323). -/
theorem HostEffect.eq_withHostSide_of_busy {s t : State} (h : HostEffect s t) (hb : s.phase.busy = true) :
    t = s.withHostSide t.hostSide := by
  cases h with
  | setup hp | update hp | pixel _ hp | cfgWidth hp | cfgHeight hp | cfgColstart hp | cfgRowstart hp | cfgMode hp =>
    rw [hp] at hb; cases hb
  | returned | ignored | raised | pixX | pixY | pixColor => rfl

/-- FB is cleared in CONFIG_MODE alone, and no other element of `s.pending` writes it (R232). -/
theorem SequencerEffect.fb_eq {s t : State} (he : SequencerEffect s t) (h : s.Inv) (hp : s.phase ≠ .configMode) :
    t.fb = s.fb := by
  cases he with
  | clear ms hpend =>
    obtain ⟨v, hv, -⟩ := h.head hpend
    exact absurd (Plan.next_clearFb hv).2 hp
  | idle | emit | enter | count | loopEnd | record | delay | advance | recordDone | caset | raset | ramwr | madctl
  | invon => rfl

/-- Settles O48: each kind of turn that `step_cases` lists; a block reset resets neither the ROM nor a parameter. -/
theorem romAndParametersAreConstant : Obligations.RomAndParametersAreConstant := by
  intro s t h
  rcases step_cases h with ⟨-, rfl⟩ | ⟨ts, -, rfl⟩ | ⟨ts, -, rfl⟩ | ⟨ts, ps, -, -, he⟩ | ⟨ts, -, he⟩
  · exact ⟨rfl, rfl⟩
  · exact ⟨rfl, rfl⟩
  · exact ⟨rfl, rfl⟩
  · obtain ⟨hrom, hpar, -⟩ := he.frame
    exact ⟨hrom, hpar⟩
  · exact he.constants_eq

/-! ## The two sides do not disturb each other (R97, R98, R326) -/

/-- A host's step is a host effect, its program kept or its first item taken. -/
theorem step_host_effect {s t : State} {ts : List Turn} (ha : s.agenda = .host :: ts) (h : step s = .next t) :
    ∃ ps, HostEffect { s with agenda := ts, hostProgram := ps } t := by
  rcases step_cases h with ⟨ha', -⟩ | ⟨ts', ha', -⟩ | ⟨ts', ha', -⟩ | ⟨ts', ps, ha', -, he⟩ | ⟨ts', ha', -⟩ <;>
    rw [ha] at ha' <;> cases ha'
  exact ⟨ps, he⟩

theorem step_sequencer_effect {s t : State} {ts : List Turn} (ha : s.agenda = .sequencer :: ts) (h : step s = .next t) :
    SequencerEffect { s with agenda := ts } t := by
  rcases step_cases h with ⟨ha', -⟩ | ⟨ts', ha', -⟩ | ⟨ts', ha', -⟩ | ⟨ts', ps, ha', -⟩ | ⟨ts', ha', he⟩ <;>
    rw [ha] at ha' <;> cases ha'
  exact he

/-- Settles O49: the effects that a BUSY engine allows the host write its own side alone. -/
theorem hostCannotDisturbARunningOperation : Obligations.HostCannotDisturbARunningOperation := by
  intro s t ts hb ha h
  obtain ⟨ps, he⟩ := step_host_effect ha h
  exact ⟨t.hostSide, he.eq_withHostSide_of_busy hb⟩

/-- Settles O51: in TRANSMITTING the host writes its own side alone, and the sequencer has no buffer clear to perform. -/
theorem bufferIsFixedDuringUpdate : Obligations.BufferIsFixedDuringUpdate := by
  intro s t h hp hstep hr
  rcases step_cases hstep with ⟨-, rfl⟩ | ⟨ts, -, rfl⟩ | ⟨ts, ha, -⟩ | ⟨ts, ps, -, -, he⟩ | ⟨ts, -, he⟩
  · rfl
  · rfl
  · simp [ha] at hr
  · have hfb := congrArg State.fb (he.eq_withHostSide_of_busy (show s.phase.busy = true by rw [hp]; rfl))
    exact hfb
  · exact he.fb_eq { h with } (show s.phase ≠ .configMode by rw [hp]; decide)

/-- Every element of `s.pending` reads the engine's own fields alone: the same effect, whatever the host's side holds. -/
theorem SequencerEffect.withHostSide {s t : State} (he : SequencerEffect s t) (h : HostSide) :
    SequencerEffect (s.withHostSide h) (t.withHostSide h) := by
  cases he with
  | idle hp => exact .idle hp
  | emit e ms hp => exact .emit (s := s.withHostSide h) e ms hp
  | enter ph ms hp => exact .enter (s := s.withHostSide h) ph ms hp
  | count n bs ms hp hr => exact .count (s := s.withHostSide h) n bs ms hp hr
  | loopEnd ms hp hl => exact .loopEnd (s := s.withHostSide h) ms hp hl
  | record r bs ms hp hl hd => exact .record (s := s.withHostSide h) r bs ms hp hl hd
  | delay d ms hp => exact .delay (s := s.withHostSide h) d ms hp
  | advance n ms hp => exact .advance (s := s.withHostSide h) n ms hp
  | recordDone ms hp => exact .recordDone (s := s.withHostSide h) ms hp
  | caset ms hp => exact .caset (s := s.withHostSide h) ms hp
  | raset ms hp => exact .raset (s := s.withHostSide h) ms hp
  | ramwr ms hp hc => exact .ramwr (s := s.withHostSide h) ms hp hc
  | madctl ms hp => exact .madctl (s := s.withHostSide h) ms hp
  | invon ms hp => exact .invon (s := s.withHostSide h) ms hp
  | clear ms hp hc => exact .clear (s := s.withHostSide h) ms hp hc

/-- Settles O50: the step's effect is also one of the state with another host's side, and it leaves that side alone. -/
theorem sequencerIgnoresTheHostSide : Obligations.SequencerIgnoresTheHostSide := by
  intro s t ts h ha hstep
  have he : SequencerEffect { s with agenda := ts } t := step_sequencer_effect ha hstep
  constructor
  · rw [step_sequencer (s := s.withHostSide h) ha]
    exact (he.withHostSide h).next
  · have hside : t.hostSide = s.hostSide := he.hostSide_eq
    calc t = t.withHostSide t.hostSide := (withHostSide_hostSide t).symm
      _ = t.withHostSide s.hostSide := by rw [hside]

/-! ## Program order (R85, R96) -/

/-- Settles O54: other turns leave the host's program alone; the host's turn, by the head of its program. -/
theorem hostProgramIsTakenInOrder : Obligations.HostProgramIsTakenInOrder := by
  intro s t h
  constructor
  · intro hn
    rcases step_cases h with ⟨-, rfl⟩ | ⟨ts, -, rfl⟩ | ⟨ts, -, rfl⟩ | ⟨ts, ps, ha, -⟩ | ⟨ts, -, he⟩
    · rfl
    · rfl
    · rfl
    · simp [ha] at hn
    · exact congrArg HostSide.hostProgram he.hostSide_eq
  · intro ts ha
    rcases hp : s.hostProgram with _ | ⟨a | _, rest⟩
    · rw [step_host_end ha hp] at h
      cases h
      exact .inl ⟨rfl, by rw [← hp]⟩
    · cases hd : decodeHostReg a with
      | error e => rw [step_host_refused ha hp hd] at h; cases h
      | ok i =>
        rw [step_host_access ha hp hd] at h
        refine .inr (.inl ⟨a, i, rest, rfl, hd, h, ?_⟩)
        obtain ⟨t', ht, he⟩ | ⟨f, hf, -⟩ :=
          exec_host_cases (decodeHostReg_isHostInstr hd) { s with agenda := ts, hostProgram := rest }
        · rw [h] at ht
          cases ht
          obtain ⟨-, -, hprog⟩ := he.frame
          exact hprog
        · rw [h] at hf; cases hf
    · rw [step_host_waitIdle ha hp] at h
      refine .inr (.inr ⟨rest, rfl, ?_⟩)
      cases hb : s.phase.busy <;> rw [hb] at h <;> cases h
      · rfl
      · rw [← hp]; rfl

end Sys2Proof.Machine
end

section
/-! The encodings (R111 to R125, R135): each format's encoding read back by its decoder, a reserved operation's word and effect,
and the mode byte bit by bit. -/

namespace Sys2Proof

/-! ## HOSTCMD words (R111 to R113) -/

@[simp] theorem opField_hostCmdWord (g : BitVec 24) (op : Byte) : opField (hostCmdWord g op) = op :=
  BitVec.extractLsb'_append_eq_right

@[simp] theorem ignoredField_hostCmdWord (g : BitVec 24) (op : Byte) : ignoredField (hostCmdWord g op) = g :=
  BitVec.extractLsb'_append_eq_left

/-- Every operation code but 0x01, 0x02 and 0x03 is one that R113 reserves. -/
theorem decodeHostCmd_reserved {op : Byte} (g : BitVec 24) (h : op = 0 ∨ 4 ≤ op.toNat) :
    decodeHostCmd (hostCmdWord g op) = .reservedOp op g := by
  have hn : op.toNat = 0 ∨ 4 ≤ op.toNat := h.imp_left (congrArg BitVec.toNat)
  simp only [decodeHostCmd, opField_hostCmdWord, ignoredField_hostCmdWord]
  split
  · omega
  · omega
  · omega
  · rfl

/-! ## Script bytes (R114, R119) -/

theorem decode_record {r : Record} (p : Config.Params) (h : r.wellFormed = true) :
    decode p (.record (encodeRecord r)) = .ok r.instr := by
  have hr : decodeRecord (encodeRecord r) = .ok (r, []) := by simpa using decodeRecord_encodeRecord h []
  simp only [decode, hr]

theorem decodeDelay_of_ne {d : Byte} (h : d ≠ 255) : decodeDelay d = .dlyMs d := if_neg h

/-! ## Command bytes (R123) -/

/-- Distinct command bytes (R11) are read back as their frames. -/
theorem decodeWire_commandByte {p : Config.Params}
    (h : [p.cmdCaset, p.cmdRaset, p.cmdRamwr, p.cmdMadctl, p.cmdInvon].Nodup) :
    decodeWire p p.cmdCaset = .ok .caset ∧ decodeWire p p.cmdRaset = .ok .raset ∧
    decodeWire p p.cmdRamwr = .ok .ramwr ∧ decodeWire p p.cmdMadctl = .ok .madctl ∧
    decodeWire p p.cmdInvon = .ok .invon := by
  simp only [List.nodup_cons, List.mem_cons, not_or] at h
  obtain ⟨⟨hcr, hcw, hcm, hci, -⟩, ⟨hrw, hrm, hri, -⟩, ⟨hwm, hwi, -⟩, ⟨hmi, -⟩, -⟩ := h
  simp [decodeWire, Ne.symm hcr, Ne.symm hcw, Ne.symm hcm, Ne.symm hci, Ne.symm hrw, Ne.symm hrm, Ne.symm hri,
    Ne.symm hwm, Ne.symm hwi, Ne.symm hmi]

/-! ## The round trip, and words written out from the encodings -/

/-- Settles O1: constructor by constructor, with the field lemmas of each format; an access at a register's offset and a
header byte evaluate. -/
theorem decodeEncodeRoundTrip : Obligations.DecodeEncodeRoundTrip := by
  rintro p ⟨-, -, hcmd, -⟩ i hi
  obtain ⟨hcaset, hraset, hramwr, hmadctl, hinvon⟩ := decodeWire_commandByte hcmd
  cases i with
  | setup | update | setPixel => simp [encode, decode, decodeHostCmd]
  | reservedOp op g => exact congrArg Except.ok (decodeHostCmd_reserved g (of_decide_eq_true hi))
  | regCmd a | regStatus a | regCfgWidth a | regCfgHeight a | regCfgColstart a | regCfgRowstart a | regCfgMode a
  | regGeomWidth a | regGeomHeight a | regGeomColstart a | regGeomRowstart a | regPixX a | regPixY a | regPixColor a
  | regReserved38 a | regReserved3C a => cases a <;> rfl
  | count => rfl
  | recPlain opc args => exact decode_record (r := ⟨opc, args, none⟩) p hi
  | recD opc args d => exact decode_record (r := ⟨opc, args, some d⟩) p hi
  | dly500 => rfl
  | dlyMs d => exact congrArg Except.ok (decodeDelay_of_ne (of_decide_eq_true hi))
  | caset => exact hcaset
  | raset => exact hraset
  | ramwr => exact hramwr
  | madctl => exact hmadctl
  | invon => exact hinvon

/-- Settles O4: each word is concrete, so the decoder evaluates on it. -/
theorem writtenWordsDecode : Obligations.WrittenWordsDecode := ⟨rfl, rfl, rfl, rfl, rfl, rfl, rfl, rfl⟩

end Sys2Proof

namespace Sys2Proof.Machine

/-! ## A reserved operation (R113) -/

/-- Settles O17: the word decodes to the reserved operation, and BUSY chooses the one bit that it sets. -/
theorem reservedOperationRejected : Obligations.ReservedOperationRejected := by
  refine fun s op g hop => ⟨decodeHostCmd_reserved g hop, fun hb => ?_, fun hb => ?_⟩
  · simp [execReservedOp, hb, State.raise, Err.mask]
  · simp [execReservedOp, hb, State.raise, Err.mask]

/-! ## The mode byte (R125) -/

theorem getLsbD_flagByte_shiftLeft (b : Bool) (i n : Fin 8) :
    (flagByte b <<< n.val).getLsbD i.val = (i = n && b) := by
  revert b i n
  decide

/-- Settles O34: each of the three terms holds one bit. -/
theorem modeByteHoldsTheThreeFields : Obligations.ModeByteHoldsTheThreeFields := by
  intro s i
  simp only [State.modeByte, BitVec.getLsbD_or, getLsbD_flagByte_shiftLeft, State.mirrorY, State.mirrorX, State.bgr]

end Sys2Proof.Machine
end

section
/-! Well-formed images (R121): where the records that Validate() passes start, and SETUP's rejection of every other image. -/

namespace Sys2Proof.Machine

/-! ## What Validate() decides (R121, R181) -/

/-- The loop of Validate() passes `n` records from record `k` on exactly when each has its first two bytes and its whole
length within the image; it ends where record `k + n` starts. -/
theorem scanRecords_recordStart {rom : List Byte} {n k b : Nat} :
    scanRecords rom n (recordStart rom k) = some b ↔
      (∀ i < n, recordStart rom (k + i) + 1 < rom.length) ∧
      (∀ i < n, recordStart rom (k + i) + recordLen (romByte rom (recordStart rom (k + i) + 1)) ≤ rom.length) ∧
      recordStart rom (k + n) = b := by
  induction n generalizing k with
  | zero => simp [scanRecords]
  | succ n ih =>
    have hrest := ih (k := k + 1)
    rw [recordStart] at hrest
    simp only [scanRecords_succ, hrest, Nat.forall_lt_succ_left, Nat.add_zero, ← Nat.add_assoc, Nat.add_right_comm k 1]
    tauto

/-- Validate() answers OK exactly for the images that R121 calls well-formed. -/
theorem validate_iff_wellFormed (rom : List Byte) :
    validate rom = true ↔
      1 ≤ rom.length ∧
      (∀ i < (romByte rom 0).toNat, recordStart rom i + 1 < rom.length) ∧
      (∀ i < (romByte rom 0).toNat,
        recordStart rom i + recordLen (romByte rom (recordStart rom i + 1)) ≤ rom.length) ∧
      recordStart rom (romByte rom 0).toNat = rom.length := by
  have hscan := scanRecords_recordStart (rom := rom) (n := (romByte rom 0).toNat) (k := 0) (b := rom.length)
  simp only [Nat.zero_add] at hscan
  exact validate_iff.trans (and_congr_right' hscan)

/-! ## SETUP's rejection of a malformed image (R181, R222) -/

theorem acceptance_setup {s : State} (hp : s.phase = .uninit) : s.acceptance 0x01 = none := by
  simp [State.acceptance, hp, Phase.busy]

/-- In UNINIT no acceptance check stands before SETUP's validation (R323). -/
theorem exec_setup_uninit {s : State} (g : BitVec 24) (hp : s.phase = .uninit) :
    exec (.setup g) s = .next s.startSetup := by
  show s.command 0x01 = _
  rw [State.command, acceptance_setup hp]
  rfl

/-- Settles O3: R121 through the loop of Validate(), and the two ways SETUP fails its validation, both without an event. -/
theorem validateDecidesWellFormedness : Obligations.ValidateDecidesWellFormedness := by
  refine ⟨validate_iff_wellFormed, fun s g hp hv => ⟨_, exec_setup_uninit g hp, ?_⟩⟩
  obtain ⟨-, h⟩ | ⟨-, -, h⟩ | ⟨-, hvalid, -⟩ := startSetup_cases s
  · simp [h]
  · simp [h]
  · rw [hv] at hvalid; cases hvalid

end Sys2Proof.Machine
end

section
/-! The wire (R151 to R157, R162): the step of a wire event in `s.pending`, the line levels event by event, and the bits of a
byte in the order in which MOSI carries them. -/

namespace Sys2Proof.Machine

/-! ## The line levels, by kind of event -/

theorem csAfter_eq_ite (e : WireEvent) (c : Bool) :
    e.csAfter c = if e = .sel then false else if e = .desel then true else c := by
  cases e with
  | sel => simp
  | desel => simp
  | cmd | dat | rst | wait => simp

/-- DC moves only with a byte (R51). -/
theorem dcAfter_of_not_byte {e : WireEvent} (h : ∀ b, e ≠ .cmd b ∧ e ≠ .dat b) (p : Config.Params) (d : Bool) :
    e.dcAfter p d = d := by
  cases e with
  | cmd b => exact absurd rfl (h b).1
  | dat b => exact absurd rfl (h b).2
  | sel | desel | rst | wait => rfl

theorem rstAfter_of_ne_rst {e : WireEvent} (h : ∀ l, e ≠ .rst l) (r : Bool) : e.rstAfter r = r := by
  cases e with
  | rst l => exact absurd rfl (h l)
  | sel | desel | cmd | dat | wait => rfl

/-! ## The step of a wire event -/

theorem step_emit {s : State} {ts : List Turn} {ms : List Micro} {e : WireEvent}
    (ha : s.agenda = .sequencer :: ts) (hp : s.pending = .emit e :: ms) :
    step s = .next (({ s with agenda := ts, pending := ms } : State).emit e) := by
  simp only [step_sequencer ha, State.fetchSequencer, hp, runFetched]

/-- Settles O7: the step is `emit`, so its trace and its frame are those of `emit`, and each line level is the one that the
event leaves. -/
theorem stepEmitsOneEvent : Obligations.StepEmitsOneEvent := by
  intro s ts ms e ha hp
  refine ⟨_, step_emit ha hp, emit_trace _ e, csAfter_eq_ite e s.csN, ?cmd, ?dat, fun h => dcAfter_of_not_byte h s.par s.dc,
    ?rst, fun h => rstAfter_of_ne_rst h s.rst, rfl⟩
  case cmd => rintro b rfl; simp
  case dat => rintro b rfl; simp
  case rst => rintro l rfl; simp

/-! ## The bits of a byte (R156) -/

/-- Bit `i` on MOSI, counted in time, is bit 7 - `i` or bit `i` of the byte. -/
theorem mosiBits_eq_map_range (msbFirst : Bool) (b : Byte) :
    mosiBits msbFirst b = (List.range 8).map (fun i => b.getLsbD (if msbFirst then 7 - i else i)) := by
  cases msbFirst <;> rfl

@[simp] theorem length_byteCycles (p : Config.Params) (dc : Bool) (b : Byte) : (byteCycles p dc b).length = 8 := by
  simp [byteCycles, mosiBits_eq_map_range]

theorem getElem?_byteCycles (p : Config.Params) (dc : Bool) (b : Byte) {i : Nat} (hi : i < 8) :
    (byteCycles p dc b)[i]? =
      some ⟨b.getLsbD (if p.spiMsbFirst then 7 - i else i), false, dc, p.spiCpol, p.spiCpha⟩ := by
  simp [byteCycles, mosiBits_eq_map_range, hi]

/-- Settles O39: a byte has 8 cycles, and cycle `i` carries its bit 7 - `i` or its bit `i`. -/
theorem bytesAreSerialised : Obligations.BytesAreSerialised :=
  fun p dc b i => ⟨length_byteCycles p dc b, _, getElem?_byteCycles p dc b i.isLt, rfl, rfl, rfl⟩

end Sys2Proof.Machine
end

section
/-! The script image (R114, R121, R191, R192): a list of records read back from its encoding, the encoding of what was read, and
the loop of Validate() over an encoded list. -/

namespace Sys2Proof

/-! ## A list of records -/

/-- Reading `n + 1` records is reading one and then `n` from the bytes it leaves. -/
theorem decodeRecords_succ_ok_iff {n : Nat} {bs tail : List Byte} {rs : List Record} :
    decodeRecords (n + 1) bs = .ok (rs, tail) ↔
      ∃ r rest rs', decodeRecord bs = .ok (r, rest) ∧ decodeRecords n rest = .ok (rs', tail) ∧ rs = r :: rs' := by
  rw [decodeRecords]
  cases hr : decodeRecord bs with
  | error e => simp
  | ok p =>
    obtain ⟨r, rest⟩ := p
    cases hrs : decodeRecords n rest with
    | error e => simp [hrs]
    | ok q => simp [hrs, Prod.ext_iff, eq_comm, and_comm]

/-- The bytes in front of what reading `n` records leaves are those records' encodings. -/
theorem decodeRecords_ok {n : Nat} {bs tail : List Byte} {rs : List Record} (h : decodeRecords n bs = .ok (rs, tail)) :
    bs = rs.flatMap encodeRecord ++ tail ∧ rs.length = n ∧ ∀ r ∈ rs, r.wellFormed = true := by
  induction n generalizing bs rs with
  | zero => cases h; simp
  | succ n ih =>
    obtain ⟨r, rest, rs', hr, hrs, rfl⟩ := decodeRecords_succ_ok_iff.1 h
    obtain ⟨hbs, hwf⟩ := decodeRecord_ok hr
    obtain ⟨hrest, hlen, hall⟩ := ih hrs
    exact ⟨by rw [hbs, hrest, List.flatMap_cons, List.append_assoc], by simp [hlen], List.forall_mem_cons.2 ⟨hwf, hall⟩⟩

/-- Records within their bounds, encoded in front of any bytes, are read back with those bytes left. -/
theorem decodeRecords_flatMap_encodeRecord {rs : List Record} (h : ∀ r ∈ rs, r.wellFormed = true) (tail : List Byte) :
    decodeRecords rs.length (rs.flatMap encodeRecord ++ tail) = .ok (rs, tail) := by
  induction rs with
  | nil => rfl
  | cons r rs ih =>
    obtain ⟨hr, hrs⟩ := List.forall_mem_cons.1 h
    rw [List.flatMap_cons, List.append_assoc]
    exact decodeRecords_succ_ok_iff.2 ⟨r, _, rs, decodeRecord_encodeRecord hr _, ih hrs, rfl⟩

/-- An image is its count byte and that many records with no byte left (R114, R182). -/
theorem decodeImage_cons_ok_iff {n : Byte} {bs : List Byte} {rs : List Record} :
    decodeImage (n :: bs) = .ok rs ↔ decodeRecords n.toNat bs = .ok (rs, []) := by
  rw [decodeImage]
  rcases decodeRecords n.toNat bs with e | ⟨rs', _ | ⟨b, tail⟩⟩ <;> simp

theorem recordsWellFormed_iff {rs : List Record} :
    recordsWellFormed rs = true ↔ rs.length ≤ 255 ∧ ∀ r ∈ rs, r.wellFormed = true := by
  simp [recordsWellFormed]

/-! ## Validate() and the records -/

/-- Where the loop of Validate() passes a record, that record is read and the loop goes on past its bytes. -/
theorem decodeRecord_of_scan {rom : List Byte} {n a b : Nat} (h : scanRecords rom (n + 1) a = some b) :
    ∃ r, decodeRecord (rom.drop a) = .ok (r, rom.drop (a + (2 + r.args.length + r.delay.toList.length))) ∧
      scanRecords rom n (a + (2 + r.args.length + r.delay.toList.length)) = some b := by
  obtain ⟨h1, h2, hrest⟩ := scanRecords_succ.1 h
  obtain ⟨r, hr, hlen⟩ := decodeRecord_at h1 h2
  rw [← hlen] at hr hrest
  exact ⟨r, hr, hrest⟩

/-- A well-formed image decodes (R182). -/
theorem decodeImage_of_validate {rom : List Byte} (h : validate rom = true) : ∃ rs, decodeImage rom = .ok rs := by
  obtain ⟨hlen, hscan⟩ := validate_iff.1 h
  obtain ⟨n, bs, rfl⟩ := List.exists_cons_of_length_pos hlen
  obtain ⟨rs, hrs, -⟩ := decodeRecords_of_scan hscan
  exact ⟨rs, decodeImage_cons_ok_iff.2 (by simpa [romByte] using hrs)⟩

/-- The length that a record's CF byte states is the length of its encoding (R118, R192). -/
theorem recordLen_cfByte {r : Record} (h : r.wellFormed = true) : recordLen (cfByte r) = (encodeRecord r).length := by
  obtain ⟨opc, args, delay⟩ := r
  obtain ⟨hargc, hflag⟩ := cf_fields delay.isSome (of_decide_eq_true h)
  simp only [recordLen, cfByte, hargc, hflag, encodeRecord]
  cases delay <;> simp <;> omega

/-- The loop of Validate() passes over the encodings of a list of records, wherever they stand. -/
theorem scanRecords_flatMap_encodeRecord {rs : List Record} (h : ∀ r ∈ rs, r.wellFormed = true) (pre : List Byte) :
    scanRecords (pre ++ rs.flatMap encodeRecord) rs.length pre.length = some (pre ++ rs.flatMap encodeRecord).length := by
  induction rs generalizing pre with
  | nil => simp [scanRecords]
  | cons r rs ih =>
    obtain ⟨hr, hrs⟩ := List.forall_mem_cons.1 h
    have hcf : romByte (pre ++ (r :: rs).flatMap encodeRecord) (pre.length + 1) = cfByte r := by
      simp [romByte, encodeRecord]
    have hlen : 2 ≤ (encodeRecord r).length := by simp [encodeRecord]
    have hrest := ih hrs (pre ++ encodeRecord r)
    rw [List.append_assoc, ← List.flatMap_cons, List.length_append] at hrest
    rw [List.length_cons, scanRecords_succ, hcf, recordLen_cfByte hr]
    refine ⟨?_, ?_, hrest⟩ <;> simp only [List.flatMap_cons, List.length_append] <;> omega

/-! ## The round trip (R191) -/

/-- The encoding of a list within the bounds of R192 is well-formed. -/
theorem validate_encodeImage {rs : List Record} (h : recordsWellFormed rs = true) : validate (encodeImage rs) = true := by
  obtain ⟨hlen, hall⟩ := recordsWellFormed_iff.1 h
  have hcount : (romByte (encodeImage rs) 0).toNat = rs.length := Nat.mod_eq_of_lt (by omega)
  exact validate_iff.2 ⟨by simp [encodeImage], by rw [hcount]; exact scanRecords_flatMap_encodeRecord hall [_]⟩

/-- A list within the bounds of R192 is read back from its encoding. -/
theorem decodeImage_encodeImage {rs : List Record} (h : recordsWellFormed rs = true) :
    decodeImage (encodeImage rs) = .ok rs := by
  obtain ⟨hlen, hall⟩ := recordsWellFormed_iff.1 h
  have hcount : (BitVec.ofNat 8 rs.length).toNat = rs.length := Nat.mod_eq_of_lt (by omega)
  refine decodeImage_cons_ok_iff.2 ?_
  rw [hcount]
  simpa using decodeRecords_flatMap_encodeRecord hall []

/-- What an image decodes to is within the bounds of R192 and encodes to that image. -/
theorem encodeImage_of_decodeImage {rom : List Byte} {rs : List Record} (h : decodeImage rom = .ok rs) :
    recordsWellFormed rs = true ∧ encodeImage rs = rom := by
  cases rom with
  | nil => cases h
  | cons n bs =>
    obtain ⟨hbs, hlen, hall⟩ := decodeRecords_ok (decodeImage_cons_ok_iff.1 h)
    refine ⟨recordsWellFormed_iff.2 ⟨by have := n.isLt; omega, hall⟩, ?_⟩
    rw [encodeImage, hlen, BitVec.ofNat_toNat, BitVec.setWidth_eq, hbs, List.append_nil]

/-- Settles O2: each way by the records' own round trip, with the count byte in front. -/
theorem scriptImageRoundTrip : Obligations.ScriptImageRoundTrip := by
  refine ⟨fun rom h => ?_, fun rs h => ⟨validate_encodeImage h, decodeImage_encodeImage h⟩⟩
  obtain ⟨rs, hrs⟩ := decodeImage_of_validate h
  exact ⟨rs, hrs, encodeImage_of_decodeImage hrs⟩

end Sys2Proof
end

section
/-! Playback of the script (R180 to R190): a record and its delay as runs of the sequencer, the loop of Play() over a whole
image, and the invariant's states, which no script read or buffer access stops. -/

namespace Sys2Proof.Machine

/-! ## Delay forms (R185) -/

theorem delayMs_of_ne {d : Byte} (h : d ≠ 255) : delayMs d = d.toNat := if_neg h

/-- Settles O29: both forms are the delay byte's WAIT, and a WAIT leaves the lines as they are. -/
theorem delayForms : Obligations.DelayForms := by
  refine ⟨fun s => ⟨rfl, rfl⟩, fun s d hd => ⟨by rw [decodeDelay_of_ne hd], ?_⟩⟩
  rw [exec_dlyMs, execDlyMs, delayMs_of_ne hd]
  rfl

/-! ## One record (R183, R184) -/

/-- What a record has done when it is complete: its events are in the trace and `pc` stands past its bytes. -/
def State.played (r : Record) (s : State) : State :=
  { s with
    csN := true
    dc := if r.args = [] then s.par.dcCmdLevel else !s.par.dcCmdLevel
    wireLog := (recordEvents r).reverse ++ s.wireLog
    pc := s.pc + BitVec.ofNat 16 (2 + r.args.length + r.delay.toList.length) }

/-- The command, its arguments and DESEL, one event a step: DC ends at the level of the last byte (R153, R154). -/
theorem transaction_runs (b : Byte) (bs : List Byte) {s : State} {ms : List Micro}
    (h : s.pending = .emit (.cmd b) :: (dataMicros bs ++ .emit .desel :: ms)) :
    RunsIn (bs.length + 2) s { s with
      pending := ms
      csN := true
      dc := if bs = [] then s.par.dcCmdLevel else !s.par.dcCmdLevel
      wireLog := ([WireEvent.cmd b] ++ bs.map WireEvent.dat ++ [WireEvent.desel]).reverse ++ s.wireLog } := by
  have hruns := RunsIn.emits (s := s) ([.cmd b] ++ bs.map .dat ++ [.desel]) ms (by simp [h, dataMicros_eq]) rfl
  simpa [List.foldl_append] using hruns

/-- After its SEL a record needs a step for its command, for each argument, for DESEL, for its delay and for the advance of
`pc`. -/
theorem record_runs (r : Record) (s : State) :
    RunsIn (r.args.length + 3 + r.delay.toList.length) (s.begin .sel (recordRest r)) (s.played r) := by
  obtain ⟨opc, args, delay⟩ := r
  have hbytes := transaction_runs opc args (s := s.begin .sel (recordRest ⟨opc, args, delay⟩))
    (ms := delay.toList.map .delay ++ .advance (2 + args.length + delay.toList.length) :: s.pending) (by simp [recordRest])
  cases delay with
  | none =>
    have hadvance := hbytes.trans (.one (.advance _ s.pending rfl))
    simpa [State.played, recordEvents, State.begin, State.emit] using hadvance
  | some d =>
    have hdelay := hbytes.trans (.one (.delay d _ rfl))
    have hadvance := hdelay.trans (.one (.advance _ s.pending rfl))
    simpa [State.played, recordEvents, State.begin, State.emit] using hadvance

/-- Settles O27: the run of a record that has no delay. -/
theorem recordPlays : Obligations.RecordPlays := by
  refine fun s opc args => ⟨_, exec_record ⟨opc, args, none⟩ s, ?_⟩
  simpa [State.played, recordEvents] using (record_runs ⟨opc, args, none⟩ s).run

/-- Settles O28: the run of a record that has a delay. -/
theorem delayedRecordPlays : Obligations.DelayedRecordPlays := by
  refine fun s opc args d => ⟨_, exec_record ⟨opc, args, some d⟩ s, ?_⟩
  simpa [State.played, recordEvents, Nat.add_right_comm] using (record_runs ⟨opc, args, some d⟩ s).run

/-! ## The loop of Play() (R180, R182, R186) -/

/-- One round of the loop: the record at `pc` is played and counted, and the loop test comes again. -/
theorem loopRound_runs {s : State} {ms : List Micro} {r : Record} {bs : List Byte} (hp : s.pending = .playNext :: ms)
    (hl : s.recLeft ≠ 0) (hd : decodeRecord (s.rom.drop s.pc.toNat) = .ok (r, bs)) :
    ∃ k, RunsIn k s { s.played r with recLeft := s.recLeft - 1 } := by
  have hrecord := (RunsIn.one (.record r bs ms hp hl hd)).trans (record_runs r _)
  have hround := hrecord.trans (.one (.recordDone (.playNext :: ms) rfl))
  rw [← hp] at hround
  exact ⟨_, hround⟩

/-- From a place where the loop of Validate() passes all records that are left, the loop of Play() plays what they decode
to and comes to its test with `pc` where the loop of Validate() ends (R181, R182). -/
theorem loop_runs {n b : Nat} (hb : b < 2 ^ 16) {s : State} {ms : List Micro} (hc : s.csN = true)
    (hp : s.pending = .playNext :: ms) (hn : s.recLeft.toNat = n) (hscan : scanRecords s.rom n s.pc.toNat = some b) :
    ∃ k dc rs, decodeRecords n (s.rom.drop s.pc.toNat) = .ok (rs, s.rom.drop b) ∧
      RunsIn k s { s with
        dc := dc
        wireLog := (rs.flatMap recordEvents).reverse ++ s.wireLog
        pc := BitVec.ofNat 16 b
        recLeft := 0 } := by
  induction n generalizing s with
  | zero =>
    obtain rfl : s.pc.toNat = b := Option.some.inj hscan
    have hleft : s.recLeft = 0 := BitVec.eq_of_toNat_eq hn
    refine ⟨0, s.dc, [], rfl, fun m => ?_⟩
    simp [← hleft]
  | succ n ih =>
    obtain ⟨r, hr, hrest⟩ := decodeRecord_of_scan hscan
    obtain ⟨k, hround⟩ := loopRound_runs hp (by rintro h0; simp [h0] at hn) hr
    have hpc : (s.played r).pc.toNat = s.pc.toNat + (2 + r.args.length + r.delay.toList.length) := by
      have := (scanRecords_le hrest).1
      simp only [State.played, BitVec.toNat_add, BitVec.toNat_ofNat]
      omega
    obtain ⟨k', dc, rs, hrs, hloop⟩ := ih (s := { s.played r with recLeft := s.recLeft - 1 }) rfl hp (by bv_omega)
      (by rw [hpc]; exact hrest)
    refine ⟨k + k', dc, r :: rs, decodeRecords_succ_ok_iff.2 ⟨r, _, rs, hr, by rw [← hpc]; exact hrs, rfl⟩, ?_⟩
    simpa [State.played, hc] using hround.trans hloop

/-- Settles O30: COUNT, then the loop over the records that Validate() passed, then the test that finds none. -/
theorem playbackRunsTheWholeImage : Obligations.PlaybackRunsTheWholeImage := by
  intro s ms hv hc hp
  obtain ⟨hlen, hscan⟩ := validate_iff.1 hv
  obtain ⟨n, bs, hrom⟩ := List.exists_cons_of_length_pos hlen
  have hcount := RunsIn.one (.count n bs _ hp hrom)
  obtain ⟨k, dc, rs, hrs, hloop⟩ := loop_runs (b := s.rom.length) (by have := validate_length hv; omega)
    (s := { s with pending := .playNext :: ms, phase := .playingInit, recLeft := n, pc := 1 }) hc rfl rfl
    (by simpa [hrom, romByte] using hscan)
  have hevents : playEvents s.rom = rs.flatMap recordEvents := by
    have hdecode : decodeImage s.rom = .ok rs := by
      rw [hrom] at hrs ⊢
      exact decodeImage_cons_ok_iff.2 (by simpa using hrs)
    rw [playEvents, hdecode]
  rw [← hevents] at hloop
  have hplay := hcount.trans hloop
  exact ⟨_, dc, _, hplay.run, rfl, (hplay.trans (.one (.loopEnd ms rfl rfl))).run⟩

/-- Settles O26: COUNT finds no record, so the loop test that follows it resolves the geometry. -/
theorem emptyScriptTakesNoStep : Obligations.EmptyScriptTakesNoStep := by
  refine ⟨by decide, rfl, fun s => ⟨rfl, fun hr hp => ?_⟩⟩
  have hcount := RunsIn.one (.count 0 [] _ hp hr)
  exact ⟨hcount.run, (hcount.trans (.one (.loopEnd s.configSteps rfl rfl))).run⟩

/-! ## No fault (R181, R263) -/

/-- From a state with the invariant the sequencer reads no script byte past P_SCRIPT_LEN and no FB byte past P_BUF_BYTES:
Validate() has passed the record it is to read, and the active part of FB fits. -/
theorem State.Inv.not_sequencerStops {s : State} (h : s.Inv) (f : Fault) : ¬ SequencerStops s f := by
  rintro (⟨-, ms, ⟨hp, hr⟩ | ⟨hp, hl, e, he⟩⟩ | ⟨-, ms, ⟨hp, hlt⟩ | ⟨hp, hlt⟩⟩)
  · obtain ⟨v, hv, -⟩ := h.head hp
    obtain ⟨-, n, bs, hrom, -⟩ := Plan.next_playCount hv
    rw [hr] at hrom
    cases hrom
  · obtain ⟨v, hv, -⟩ := h.head hp
    obtain ⟨⟨-, -, hscan⟩, -⟩ := Plan.next_playNext_iff.1 hv
    have hscan : scanRecords s.rom s.recLeft.toNat s.pc.toNat = some s.rom.length := hscan
    obtain ⟨n, hn⟩ : ∃ n, s.recLeft.toNat = n + 1 :=
      Nat.exists_eq_succ_of_ne_zero fun h0 => hl (BitVec.eq_of_toNat_eq h0)
    rw [hn] at hscan
    obtain ⟨r, hr, -⟩ := decodeRecord_of_scan hscan
    rw [he] at hr
    cases hr
  · obtain ⟨v, hv, -⟩ := h.head hp
    obtain ⟨-, -, hph⟩ := Plan.next_updateFrame hv (by simp)
    exact absurd ((h.cleared (.inr hph)).trans h.fbCapacity) (Nat.not_le_of_lt hlt)
  · obtain ⟨v, hv, -⟩ := h.head hp
    obtain ⟨-, -, -, -, hbytes⟩ := (geometryValid_iff _ _).1 (h.valid_of_busy (Plan.next_busy hv)).1
    exact absurd hbytes (Nat.not_le_of_lt hlt)

/-- Settles O43: the sequencer's stops are excluded, and an in-range pixel lies in the part of FB that SETUP cleared. -/
theorem invariantStatesNeverFault : Obligations.InvariantStatesNeverFault := by
  intro s f h hf
  obtain ⟨ts, -, hstops⟩ | ⟨ts, -, hp, hr, hlt⟩ := step_fault hf
  · exact State.Inv.not_sequencerStops (s := { s with agenda := ts }) { h with } f hstops
  · have hfits := (pixelOffset_add_bpp_le hr).trans ((h.cleared (.inl hp)).trans h.fbCapacity)
    exact absurd hfits (Nat.not_le_of_lt hlt)

end Sys2Proof.Machine
end

section
/-! The registers as the host sees them (R33 to R48, R236 to R239): what a read returns, what a write stores, and the lifecycle
transitions of R220. -/

namespace Sys2Proof.Machine

/-! ## The access forms (R55, R83, R239) -/

@[simp] theorem readOnlyAccess_read (v : Word) (s : State) : readOnlyAccess v .read s = .next (s.returnRead v) := rfl

@[simp] theorem readOnlyAccess_write (v w : Word) (s : State) : readOnlyAccess v (.write w) s = .next s := rfl

@[simp] theorem configAccess_read (v : Word) (written : Word → State) (s : State) :
    configAccess v .read written s = .next (s.returnRead v) := rfl

theorem configAccess_write_uninit {s : State} (hp : s.phase = .uninit) (v w : Word) (written : Word → State) :
    configAccess v (.write w) written s = .next (written w) := if_pos hp

theorem configAccess_write_locked {s : State} (hp : s.phase ≠ .uninit) (v w : Word) (written : Word → State) :
    configAccess v (.write w) written s = .next (s.raise .state) := if_neg hp

/-- Settles O10: the reads of the nine registers, by their access form. -/
theorem configAndGeometryReads : Obligations.ConfigAndGeometryReads := by
  intro s
  simp [execRegCfgWidth, execRegCfgHeight, execRegCfgColstart, execRegCfgRowstart, execRegCfgMode, execRegGeomWidth,
    execRegGeomHeight, execRegGeomColstart, execRegGeomRowstart, State.returnRead]

/-- Settles O12: a read of CMD has its own arm, and the other registers are read-only. -/
theorem otherHostAccesses : Obligations.OtherHostAccesses := by
  intro s v
  simp [execRegCmd, execRegStatus, execRegGeomWidth, execRegGeomHeight, execRegGeomColstart, execRegGeomRowstart,
    execRegReserved38, execRegReserved3C, State.returnRead]

/-! ## Masked writes (R236) -/

/-- Masking a word to its low `n` bits and taking them is taking them. -/
theorem setWidth_and_mask {n : Nat} {mask : Word} (hn : n ≤ 32) (hm : mask.setWidth n = BitVec.allOnes n) (v : Word) :
    (v &&& mask).setWidth n = v.extractLsb' 0 n := by
  rw [BitVec.setWidth_and, hm, BitVec.and_allOnes, BitVec.setWidth_eq_extractLsb' hn]

/-- Settles O14: by the lifecycle state, with the mask of each register. -/
theorem configWrites : Obligations.ConfigWrites := by
  intro s v
  have h16 : (v &&& 0xFFFF).setWidth 16 = v.extractLsb' 0 16 := setWidth_and_mask (by decide) (by decide) v
  have h6 : (v &&& 0x3F).setWidth 6 = v.extractLsb' 0 6 := setWidth_and_mask (by decide) (by decide) v
  constructor
  · intro hp
    rw [h16, h6]
    simp [execRegCfgWidth, execRegCfgHeight, execRegCfgColstart, execRegCfgRowstart, execRegCfgMode,
      configAccess_write_uninit hp]
  · intro hp
    simp [execRegCfgWidth, execRegCfgHeight, execRegCfgColstart, execRegCfgRowstart, execRegCfgMode,
      configAccess_write_locked hp, State.raise, Err.mask]

/-! ## STATUS (R34, R35, R238) -/

/-- The value of two fields side by side. -/
theorem toNat_append_eq_add {m n : Nat} (x : BitVec m) (y : BitVec n) : (x ++ y).toNat = 2 ^ n * x.toNat + y.toNat := by
  rw [BitVec.toNat_append, ← Nat.shiftLeft_add_eq_or_of_lt y.isLt, Nat.shiftLeft_eq, Nat.mul_comm]

/-- The fields of STATUS, at bits 0, 3 and 4 (R33, R238). -/
theorem status_toNat (s : State) :
    s.status.toNat = s.phase.code.toNat + 8 * s.phase.busy.toNat + 16 * s.err.toNat := by
  have hfields : s.status.toNat =
      2 ^ 3 * (2 ^ 1 * (2 ^ 5 * (0#23).toNat + s.err.toNat) + s.busyBit.toNat) + s.phase.code.toNat := by
    simp only [← toNat_append_eq_add]
    rfl
  have hbusy : s.busyBit.toNat = s.phase.busy.toNat := BitVec.toNat_ofBool _
  rw [hfields, hbusy, BitVec.toNat_ofNat]
  omega

/-- Settles O11: the value is `State.status`, and R34's table and R35's list are those of `Phase.code` and `Phase.busy`. -/
theorem statusRead : Obligations.StatusRead := by
  refine fun s => ⟨s.status, readOnlyAccess_read _ s, ?_⟩
  rw [status_toNat]
  cases s.phase <;> rfl

/-! ## The lifecycle (R220) -/

theorem HostEffect.phase_eq_or_mayBecome {s t : State} (h : HostEffect s t) :
    t.phase = s.phase ∨ s.phase.mayBecome t.phase = true := by
  cases h with
  | setup hp =>
    obtain ⟨-, hs⟩ | ⟨-, -, hs⟩ | ⟨-, -, hs⟩ := startSetup_cases s <;> rw [hs, hp] <;> exact .inr rfl
  | update hp => rw [hp]; exact .inr rfl
  | pixel _ _ hd => exact .inl (drawPixel_phase hd)
  | returned | ignored | raised | cfgWidth | cfgHeight | cfgColstart | cfgRowstart | cfgMode | pixX | pixY
  | pixColor => exact .inl rfl

/-- The plan of an engine with the invariant fixes the state in which each change of STATE may stand in `s.pending`. -/
theorem SequencerEffect.phase_eq_or_mayBecome {s t : State} (he : SequencerEffect s t) (h : s.Inv) :
    t.phase = s.phase ∨ s.phase.mayBecome t.phase = true := by
  cases he with
  | enter ph ms hp =>
    obtain ⟨v, hv, -⟩ := h.head hp
    obtain ⟨-, rfl, ⟨hph, -⟩ | hph⟩ := Plan.next_enter hv
    · have hph : s.phase = .configMode := hph
      rw [hph]; exact .inr rfl
    · have hph : s.phase = .transmitting := hph
      rw [hph]; exact .inr rfl
  | count n bs ms hp =>
    obtain ⟨v, hv, -⟩ := h.head hp
    have hph : s.phase = .resetting := (Plan.next_playCount hv).1
    rw [hph]; exact .inr rfl
  | loopEnd ms hp =>
    obtain ⟨v, hv, -⟩ := h.head hp
    obtain ⟨⟨-, hph, -⟩, -⟩ := Plan.next_playNext_iff.1 hv
    have hph : s.phase = .playingInit := hph
    rw [hph]; exact .inr rfl
  | idle | emit | record | delay | advance | recordDone | caset | raset | ramwr | madctl | invon | clear => exact .inl rfl

/-- Settles O45: each kind of turn that `step_cases` lists, with the transition its effect makes. -/
theorem onlyTheListedTransitions : Obligations.OnlyTheListedTransitions := by
  intro s t h hstep
  rcases step_cases hstep with ⟨-, rfl⟩ | ⟨ts, -, rfl⟩ | ⟨ts, ha, rfl⟩ | ⟨ts, ps, -, -, he⟩ | ⟨ts, -, he⟩
  · exact .inl rfl
  · exact .inl rfl
  · exact .inr (.inr ⟨by rw [ha]; rfl, rfl⟩)
  · exact he.phase_eq_or_mayBecome.imp_right .inl
  · exact (he.phase_eq_or_mayBecome { h with }).imp_right .inl

end Sys2Proof.Machine
end

section
/-! SETUP (R221 to R235): its validation, the frames that it sends, and its run from UNINIT to READY in three stages. -/

namespace Sys2Proof.Machine

/-! ## Acceptance and validation (R221, R222, R226 to R228) -/

/-- Settles O18: in UNINIT no acceptance check stands before SETUP's validation, and the validation passes. -/
theorem setupAccepted : Obligations.SetupAccepted := by
  intro s g hp hg hv
  rw [exec_setup_uninit g hp]
  obtain ⟨hg', -⟩ | ⟨-, hv', -⟩ | ⟨-, -, hs⟩ := startSetup_cases s
  · rw [hg] at hg'; cases hg'
  · rw [hv] at hv'; cases hv'
  · rw [hs]

/-- A resolved size is not 0: a request of 0 takes its default, which is not 0 (R226). -/
theorem orDefault_pos {requested default : Half} (hd : default ≠ 0) : 1 ≤ (orDefault requested default).toNat := by
  have hne : orDefault requested default ≠ 0 := by
    unfold orDefault
    split
    · exact hd
    · assumption
  exact Nat.one_le_iff_ne_zero.2 fun h => hne (BitVec.eq_of_toNat_eq h)

/-- A default of 0 resolves every request to itself (R226). -/
theorem orDefault_zero (requested : Half) : orDefault requested 0 = requested := by
  unfold orDefault
  split
  · next h => exact h.symm
  · rfl

/-- Settles O19: each field of the geometry by `orDefault`, the check condition by condition, and the two ways in which
SETUP's validation fails. -/
theorem setupRejectedByValidation : Obligations.SetupRejectedByValidation := by
  refine ⟨fun s => ⟨rfl, rfl, rfl, orDefault_zero _, orDefault_pos (by decide), orDefault_pos (by decide)⟩,
    geometryValid_iff, fun s g hp => ?_⟩
  rw [exec_setup_uninit g hp]
  obtain ⟨hg, hs⟩ | ⟨hg, hv, hs⟩ | ⟨hg, hv, -⟩ := startSetup_cases s
  · simp [hg, hs, State.failSetup, State.raise, Err.mask]
  · simp [hg, hv, hs, State.failSetup, State.raise, Err.mask]
  · simp [hg, hv]

/-! ## The frames of SETUP (R158, R230, R231) -/

/-- A transaction from its SEL on: a step for its command, for each data byte and for DESEL. -/
theorem begin_transaction_runs (b : Byte) (bs : List Byte) (s : State) :
    RunsIn (bs.length + 2) (s.begin .sel (.emit (.cmd b) :: (dataMicros bs ++ [.emit .desel]))) { s with
      csN := true
      dc := if bs = [] then s.par.dcCmdLevel else !s.par.dcCmdLevel
      wireLog := ([WireEvent.sel, .cmd b] ++ bs.map WireEvent.dat ++ [WireEvent.desel]).reverse ++ s.wireLog } := by
  have hruns := transaction_runs b bs (s := s.begin .sel (.emit (.cmd b) :: (dataMicros bs ++ [.emit .desel])))
    (ms := s.pending) (by simp)
  simpa [State.begin, State.emit] using hruns

/-- MADCTL has one data byte, so it leaves DC at the data level. -/
theorem madctl_runs (s : State) :
    RunsIn 3 (s.begin .sel [.emit (.cmd s.par.cmdMadctl), .emit (.dat s.modeByte), .emit .desel]) { s with
      csN := true
      dc := !s.par.dcCmdLevel
      wireLog := [.desel, .dat s.modeByte, .cmd s.par.cmdMadctl, .sel] ++ s.wireLog } :=
  begin_transaction_runs s.par.cmdMadctl [s.modeByte] s

/-- INVON has no data byte, so it leaves DC at the command level. -/
theorem invon_runs (s : State) :
    RunsIn 2 (s.begin .sel [.emit (.cmd s.par.cmdInvon), .emit .desel]) { s with
      csN := true
      dc := s.par.dcCmdLevel
      wireLog := [.desel, .cmd s.par.cmdInvon, .sel] ++ s.wireLog } :=
  begin_transaction_runs s.par.cmdInvon [] s

/-- Settles O33: each frame emits its SEL and leaves the rest of its transaction to run. -/
theorem modeFramesAreTransactions : Obligations.ModeFramesAreTransactions :=
  fun s => ⟨⟨_, rfl, (madctl_runs s).run⟩, ⟨_, rfl, (invon_runs s).run⟩⟩

/-! ## Runs of any length -/

/-- Some run of sequencer steps takes one state to another, whatever steps follow. -/
def RunsTo (s t : State) : Prop := ∃ k, RunsIn k s t

theorem RunsIn.runsTo {k : Nat} {s t : State} (h : RunsIn k s t) : RunsTo s t := ⟨k, h⟩

theorem RunsTo.one {s t : State} (h : SequencerEffect s t) : RunsTo s t := (RunsIn.one h).runsTo

theorem RunsTo.trans {s t u : State} : RunsTo s t → RunsTo t u → RunsTo s u
  | ⟨_, h⟩, ⟨_, h'⟩ => (h.trans h').runsTo

/-- A run that ends is a step of the sequencer's turn and a run from there. -/
theorem runSequencer_succ_next {n : Nat} {s t : State} (h : s.runSequencer (n + 1) = .next t) :
    ∃ u, SequencerEffect s u ∧ u.runSequencer n = .next t := by
  obtain ⟨u, -, he⟩ | ⟨f, hf, -⟩ := sequencer_cases { s with agenda := List.replicate n .sequencer }
  · have he := he.withAgenda s.agenda
    exact ⟨_, he, (runSequencer_succ he n).symm.trans h⟩
  · have hstep : step { s with agenda := List.replicate (n + 1) .sequencer } = .fault f := (step_sequencer rfl).trans hf
    unfold State.runSequencer at h
    simp only [Host.Core.run] at h
    split at h
    · next he => cases he.symm.trans hstep
    · cases h
    · cases h

/-- A run that ends is the beginning of every longer run. -/
theorem RunsIn.of_run {k : Nat} {s t : State} (h : s.runSequencer k = .next t) : RunsIn k s t := by
  induction k generalizing s with
  | zero =>
    obtain rfl := Host.Outcome.next.inj h
    intro m
    rw [Nat.zero_add]
    rfl
  | succ k ih =>
    obtain ⟨u, he, hu⟩ := runSequencer_succ_next h
    rw [Nat.add_comm]
    exact (RunsIn.one he).trans (ih hu)

/-! ## The stages of SETUP (R224, R225, R230 to R233) -/

/-- The events of SETUP before playback: the reset pulse, where the board has a reset line, and the startup wait
(R224, R225). -/
def State.startupEvents (s : State) : List WireEvent :=
  (if s.rstPresent then [.rst true, .wait Config.tRstHigh, .rst false, .wait Config.tRstLow, .rst true] else []) ++
    [.wait Config.tStartup]

/-- The events of SETUP after playback: MADCTL, and INVON where the configuration asks for it (R230, R231). -/
def State.modeEvents (s : State) : List WireEvent :=
  [.sel, .cmd s.par.cmdMadctl, .dat s.modeByte, .desel] ++
    (if s.invert then [.sel, .cmd s.par.cmdInvon, .desel] else [])

theorem setupEvents_eq (s : State) : s.setupEvents = s.startupEvents ++ playEvents s.rom ++ s.modeEvents := by
  simp only [State.setupEvents, State.startupEvents, State.modeEvents, List.append_assoc]
  rfl

theorem setupSteps_eq (s : State) :
    s.setupSteps = s.startupEvents.map .emit ++ .playCount :: .playNext :: s.configSteps := by
  unfold State.setupSteps State.startupEvents State.resetPulse
  split <;> rfl

/-- Before playback SETUP moves no line but RST, which the pulse leaves high. -/
theorem startup_runs {s : State} {ms : List Micro} (hp : s.pending = s.startupEvents.map .emit ++ ms)
    (hr : s.rst = true) : RunsTo s { s with pending := ms, wireLog := s.startupEvents.reverse ++ s.wireLog } := by
  refine (RunsIn.emits s.startupEvents ms hp ?_).runsTo
  cases hpulse : s.rstPresent <;> simp [State.startupEvents, hpulse, hr]

/-- Playback of a well-formed script, with the resolution of the geometry that follows it (R182, R186, R229). -/
theorem playback_runs {s : State} {ms : List Micro} (hv : validate s.rom = true) (hc : s.csN = true)
    (hp : s.pending = .playCount :: .playNext :: ms) :
    ∃ dc, RunsTo s { s.resolve with
      pending := ms
      dc := dc
      wireLog := (playEvents s.rom).reverse ++ s.wireLog
      pc := BitVec.ofNat 16 s.rom.length
      recLeft := 0
      agenda := [] } := by
  obtain ⟨n, dc, t, -, rfl, hrun⟩ := playbackRunsTheWholeImage s ms hv hc hp
  exact ⟨dc, (RunsIn.of_run hrun).runsTo⟩

/-- The mode frames: DC ends at the level of the last byte, INVON's command or MADCTL's data (R230, R231). -/
theorem modeFrames_runs {s : State} {ms : List Micro}
    (hp : s.pending = .frame .madctl :: ((if s.invert then [.frame .invon] else []) ++ ms)) :
    RunsTo s { s with
      pending := ms
      csN := true
      dc := if s.invert then s.par.dcCmdLevel else !s.par.dcCmdLevel
      wireLog := s.modeEvents.reverse ++ s.wireLog } := by
  have hmadctl := (RunsIn.one (.madctl _ hp)).trans (madctl_runs _)
  unfold State.modeEvents
  cases hi : s.invert with
  | false =>
    simp only [hi] at hmadctl
    exact hmadctl.runsTo
  | true =>
    simp only [hi] at hmadctl
    exact ((hmadctl.trans (.one (.invon ms rfl))).trans (invon_runs _)).runsTo

/-- From CONFIG_MODE to READY: the mode frames, the buffer clear, and the change of STATE (R230 to R233). -/
theorem configSteps_runs {s : State} (hp : s.pending = s.configSteps)
    (hb : s.resolveGeometry.bytes s.bpp ≤ s.par.bufBytes) :
    RunsTo s { s with
      pending := []
      csN := true
      dc := if s.invert then s.par.dcCmdLevel else !s.par.dcCmdLevel
      wireLog := s.modeEvents.reverse ++ s.wireLog
      fb := s.fb.clear (s.resolveGeometry.bytes s.bpp)
      phase := .ready } := by
  have hframes := modeFrames_runs hp
  have hclear := hframes.trans (.one (.clear [.enter .ready] rfl hb))
  exact hclear.trans (.one (.enter .ready [] rfl))

/-- Settles O57: SETUP is accepted, and the runs of its three stages follow one another: startup, playback, configuration. -/
theorem setupRunsToReady : Obligations.SetupRunsToReady := by
  intro s g h hp hg hv
  have hnil : s.pending = [] := h.pending_nil (by rw [hp]; rfl)
  obtain ⟨-, hcs, hrst⟩ := h.of_pending_nil hnil
  obtain ⟨-, -, -, -, hbytes⟩ := (geometryValid_iff _ _).1 hg
  have hstartup := startup_runs (s := { s with phase := .resetting, pending := s.setupSteps }) (setupSteps_eq s) hrst
  obtain ⟨dc, hplay⟩ := playback_runs (s := { s with
    phase := .resetting, pending := .playCount :: .playNext :: s.configSteps
    wireLog := s.startupEvents.reverse ++ s.wireLog }) hv hcs rfl
  obtain ⟨n, hrun⟩ := (hstartup.trans hplay).trans (configSteps_runs rfl hbytes)
  refine ⟨_, n, s.fb.clear (s.resolveGeometry.bytes s.bpp), setupAccepted s g hp hg hv, hrun.run.trans ?_,
    Fb.read_clear _ _⟩
  rw [setupEvents_eq, hnil, List.reverse_append, List.reverse_append, List.append_assoc, List.append_assoc]
  rfl

end Sys2Proof.Machine
end

section
/-! The pixels (R87, R260 to R271): their places in FB, the staging registers, what SET_PIXEL writes, and the quantisers field
by field. -/

namespace Sys2Proof.Machine

/-! ## Pixel offsets (R260, R263, R264) -/

theorem inRange_iff (s : State) (x y : Int) :
    s.inRange x y = true ↔ 0 ≤ x ∧ x < s.geomWidth.toNat ∧ 0 ≤ y ∧ y < s.geomHeight.toNat := by
  simp only [State.inRange, Bool.and_eq_true, decide_eq_true_eq, and_assoc]

theorem inRange_natCast (s : State) (i j : Nat) :
    s.inRange i j = true ↔ i < s.geomWidth.toNat ∧ j < s.geomHeight.toNat := by
  simp [inRange_iff]

/-- The coordinates of an in-range pixel are naturals. -/
theorem exists_natCast_of_inRange {s : State} {x y : Int} (h : s.inRange x y = true) :
    ∃ i j : Nat, x = i ∧ y = j ∧ i < s.geomWidth.toNat ∧ j < s.geomHeight.toNat := by
  obtain ⟨hx, -, hy, -⟩ := (inRange_iff s x y).1 h
  lift x to Nat using hx
  lift y to Nat using hy
  exact ⟨x, y, rfl, rfl, (inRange_natCast s x y).1 h⟩

theorem pixelOffset_natCast (s : State) (i j : Nat) : s.pixelOffset i j = (i + j * s.geomWidth.toNat) * s.bpp := rfl

theorem activeLen_eq (s : State) : s.activeLen = s.geomWidth.toNat * s.geomHeight.toNat * s.bpp := rfl

/-- A pixel ends within its own row of FB. -/
theorem pixelOffset_add_bpp_le_row {s : State} {i : Nat} (hi : i < s.geomWidth.toNat) (j : Nat) :
    s.pixelOffset i j + s.bpp ≤ (j + 1) * s.geomWidth.toNat * s.bpp :=
  calc s.pixelOffset i j + s.bpp = (i + 1 + j * s.geomWidth.toNat) * s.bpp := by rw [pixelOffset_natCast]; ring
    _ ≤ (j + 1) * s.geomWidth.toNat * s.bpp := Nat.mul_le_mul_right _ (by linarith)

/-- The rows of FB lie within its active part. -/
theorem row_end_le_activeLen {s : State} {j : Nat} (hj : j < s.geomHeight.toNat) :
    (j + 1) * s.geomWidth.toNat * s.bpp ≤ s.activeLen := by
  rw [activeLen_eq, Nat.mul_comm s.geomWidth.toNat]
  exact Nat.mul_le_mul_right _ (Nat.mul_le_mul_right _ hj)

/-- A pixel's column and row are the remainder and the quotient of its index by the row length. -/
theorem pixelOffset_injective {s : State} {i j i' j' : Nat} (hi : i < s.geomWidth.toNat) (hi' : i' < s.geomWidth.toNat)
    (h : s.pixelOffset i j = s.pixelOffset i' j') : i = i' ∧ j = j' := by
  have hindex : i + j * s.geomWidth.toNat = i' + j' * s.geomWidth.toNat := Nat.eq_of_mul_eq_mul_right (bpp_pos s) h
  have hcol := congrArg (· % s.geomWidth.toNat) hindex
  have hrow := congrArg (· / s.geomWidth.toNat) hindex
  have hw : 0 < s.geomWidth.toNat := Nat.zero_lt_of_lt hi
  simp only [Nat.add_mul_mod_self_right, Nat.mod_eq_of_lt, hi, hi'] at hcol
  simp only [Nat.add_mul_div_right _ _ hw, Nat.div_eq_of_lt, hi, hi', Nat.zero_add] at hrow
  exact ⟨hcol, hrow⟩

/-- Every pixel index below W × H is that of the pixel at its remainder and quotient by the row length. -/
theorem exists_inRange_pixelOffset {s : State} {n : Nat} (h : n < s.geomWidth.toNat * s.geomHeight.toNat) :
    ∃ i j : Nat, s.inRange i j = true ∧ s.pixelOffset i j = n * s.bpp := by
  have hw : 0 < s.geomWidth.toNat := Nat.pos_of_mul_pos_right (Nat.zero_lt_of_lt h)
  refine ⟨n % s.geomWidth.toNat, n / s.geomWidth.toNat, ?_, ?_⟩
  · exact (inRange_natCast s _ _).2 ⟨Nat.mod_lt n hw, Nat.div_lt_of_lt_mul h⟩
  · rw [pixelOffset_natCast, Nat.mod_add_div']

/-- Settles O24: in-range coordinates are naturals, and a pixel's index is its column and row read in base W. -/
theorem pixelOffsetsAreExact : Obligations.PixelOffsetsAreExact := by
  refine fun s => ⟨rfl, activeLen_eq s, inRange_iff s, fun x y h => ?place, fun x y x' y' h h' ho => ?injective,
    fun o hdvd ho => ?surjective⟩
  case place =>
    obtain ⟨i, j, rfl, rfl, hi, hj⟩ := exists_natCast_of_inRange h
    have hstart : j * s.geomWidth.toNat * s.bpp ≤ s.pixelOffset i j := Nat.mul_le_mul_right _ (Nat.le_add_left _ _)
    have hrow := pixelOffset_add_bpp_le_row hi j
    have hend := hrow.trans (row_end_le_activeLen hj)
    have hpos := bpp_pos s
    refine ⟨by rw [pixelOffset_natCast]; push_cast; rfl, by exact_mod_cast hstart, ?_, Nat.dvd_mul_left _ _, by omega⟩
    exact Int.sub_le_sub_right (by exact_mod_cast hrow) 1
  case injective =>
    obtain ⟨i, j, rfl, rfl, hi, -⟩ := exists_natCast_of_inRange h
    obtain ⟨i', j', rfl, rfl, hi', -⟩ := exists_natCast_of_inRange h'
    obtain ⟨rfl, rfl⟩ := pixelOffset_injective hi hi' ho
    exact ⟨rfl, rfl⟩
  case surjective =>
    obtain ⟨n, rfl⟩ := hdvd
    rw [activeLen_eq, Nat.mul_comm] at ho
    obtain ⟨i, j, hr, hn⟩ := exists_inRange_pixelOffset (Nat.lt_of_mul_lt_mul_right ho)
    exact ⟨i, j, hr, hn.trans (Nat.mul_comm _ _)⟩

/-! ## The staging registers (R266) -/

@[simp] theorem stagingAccess_read (v : Word) (written : Word → State) (s : State) :
    stagingAccess v .read written s = .next (s.returnRead v) := rfl

@[simp] theorem stagingAccess_write (v w : Word) (written : Word → State) (s : State) :
    stagingAccess v (.write w) written s = .next (written w) := rfl

/-- Settles O13: the reads and writes of the three registers, by their access form and the mask of each. -/
theorem stagingRegisterAccesses : Obligations.StagingRegisterAccesses := by
  intro s v
  have h16 : (v &&& 0xFFFF).setWidth 16 = v.extractLsb' 0 16 := setWidth_and_mask (by decide) (by decide) v
  have h24 : (v &&& 0xFFFFFF).setWidth 24 = v.extractLsb' 0 24 := setWidth_and_mask (by decide) (by decide) v
  rw [h16, h24]
  simp [execRegPixX, execRegPixY, execRegPixColor, State.returnRead]

/-! ## SET_PIXEL (R265, R269, R270) -/

theorem drawPixel_clipped {s : State} (h : s.inRange s.pixelX s.pixelY = false) : s.drawPixel = .next s := if_pos h

/-- Settles O22: READY accepts SET_PIXEL, and an out-of-range pixel is clipped. -/
theorem setPixelClips : Obligations.SetPixelClips :=
  fun _ g hp hr => (exec_setPixel_ready g hp).trans (drawPixel_clipped hr)

theorem drawPixel_indexed8 {s : State} (hr : s.inRange s.pixelX s.pixelY = true)
    (hb : s.pixelOffset s.pixelX s.pixelY + s.bpp ≤ s.par.bufBytes) (hf : s.fmt8 = true) :
    s.drawPixel = .next { s with fb := s.fb.write (s.pixelOffset s.pixelX s.pixelY) (q332 s.pixColor) } := by
  rw [State.drawPixel, if_neg (by rw [hr]; simp), if_pos hb, if_pos hf]

theorem drawPixel_rgb565 {s : State} (hr : s.inRange s.pixelX s.pixelY = true)
    (hb : s.pixelOffset s.pixelX s.pixelY + s.bpp ≤ s.par.bufBytes) (hf : s.fmt8 = false) :
    s.drawPixel = .next { s with fb := s.fb.write16 (s.pixelOffset s.pixelX s.pixelY) (q565 s.pixColor) } := by
  rw [State.drawPixel, if_neg (by rw [hr]; simp), if_pos hb, if_neg (by rw [hf]; simp)]

/-- A 2-byte value read back where it was written (R15). -/
theorem Fb.read16_write16 {m : Fb} (h : m.wf = true) (a : Nat) (v : Half) : (m.write16 a v).read16 a = v := by
  rw [Fb.read16, Fb.read_write16 h, Fb.read_write16 h, if_pos rfl, if_neg (Nat.succ_ne_self a), if_pos rfl, hi8_append_lo8]

/-- Settles O21: READY accepts SET_PIXEL, and FB is written with one byte or with two, by the pixel format. -/
theorem setPixelWritesThePixel : Obligations.SetPixelWritesThePixel := by
  intro s g hp hwf hr hb
  rw [exec_setPixel_ready g hp]
  cases hf : s.fmt8 with
  | true =>
    have hbpp : s.bpp = 1 := if_pos hf
    refine ⟨_, drawPixel_indexed8 hr hb hf, fun _ => ?_, nofun, fun a ha => ?_⟩
    · rw [Fb.read_write hwf, if_pos rfl]
    · rw [Fb.read_write hwf, if_neg (by omega)]
  | false =>
    have hbpp : s.bpp = 2 := if_neg (by rw [hf]; simp)
    refine ⟨_, drawPixel_rgb565 hr hb hf, nofun, fun _ => Fb.read16_write16 hwf _ _, fun a ha => ?_⟩
    rw [Fb.read_write16 hwf, if_neg (by omega), if_neg (by omega)]

/-! ## The quantisers (R261, R262, R271) -/

/-- The bit of a value within the field of width `n` at bit `k`. -/
theorem getLsbD_eq_of_extractLsb'_eq {w k n i : Nat} {v v' : BitVec w} (h : v.extractLsb' k n = v'.extractLsb' k n)
    (hk : k ≤ i) (hn : i < k + n) : v.getLsbD i = v'.getLsbD i := by
  have hbit := congrArg (BitVec.getLsbD · (i - k)) h
  simpa [show i - k < n by omega, show k + (i - k) = i by omega] using hbit

/-- Three fields that make up a value determine it. -/
theorem eq_iff_fields {w l m n : Nat} (hw : w = l + m + n) {v v' : BitVec w} :
    v = v' ↔ v.extractLsb' (m + n) l = v'.extractLsb' (m + n) l ∧ v.extractLsb' n m = v'.extractLsb' n m ∧
      v.extractLsb' 0 n = v'.extractLsb' 0 n := by
  refine ⟨by rintro rfl; exact ⟨rfl, rfl, rfl⟩, fun ⟨hhigh, hmid, hlow⟩ => BitVec.eq_of_getLsbD_eq fun i hi => ?_⟩
  by_cases hn : i < n
  · exact getLsbD_eq_of_extractLsb'_eq hlow (Nat.zero_le i) (by omega)
  by_cases hm : i < m + n
  · exact getLsbD_eq_of_extractLsb'_eq hmid (by omega) (by omega)
  · exact getLsbD_eq_of_extractLsb'_eq hhigh (by omega) (by omega)

/-! In the bits of one field the terms of the other two channels are 0. -/

theorem q332_red (c : Rgb) : (q332 c).extractLsb' 5 3 = c.extractLsb' 21 3 := by
  ext i hi
  simp (disch := omega) [q332, red, green, blue, decide_eq_false, ← Nat.add_assoc]

theorem q332_green (c : Rgb) : (q332 c).extractLsb' 2 3 = c.extractLsb' 13 3 := by
  ext i hi
  simp (disch := omega) [q332, red, green, blue, decide_eq_true, decide_eq_false, ← Nat.add_assoc]

theorem q332_blue (c : Rgb) : (q332 c).extractLsb' 0 2 = c.extractLsb' 6 2 := by
  ext i hi
  simp (disch := omega) [q332, red, green, blue, decide_eq_true]

theorem q565_red (c : Rgb) : (q565 c).extractLsb' 11 5 = c.extractLsb' 19 5 := by
  ext i hi
  simp (disch := omega) [q565, red, green, blue, decide_eq_false, ← Nat.add_assoc]

theorem q565_green (c : Rgb) : (q565 c).extractLsb' 5 6 = c.extractLsb' 10 6 := by
  ext i hi
  simp (disch := omega) [q565, red, green, blue, decide_eq_true, ← Nat.add_assoc]

theorem q565_blue (c : Rgb) : (q565 c).extractLsb' 0 5 = c.extractLsb' 3 5 := by
  ext i hi
  simp (disch := omega) [q565, red, green, blue, decide_eq_true]

/-- Settles O38: the fields of a quantised colour are the kept bits of its channels, and the fields determine it. -/
theorem quantisersKeepTheTopBits : Obligations.QuantisersKeepTheTopBits := by
  refine ⟨fun c d => ?_, fun c d => ?_, by decide, by decide, by decide, by decide⟩
  · rw [← q332_red, ← q332_red, ← q332_green, ← q332_green, ← q332_blue, ← q332_blue]
    exact eq_iff_fields (l := 3) (m := 3) (n := 2) rfl
  · rw [← q565_red, ← q565_red, ← q565_green, ← q565_green, ← q565_blue, ← q565_blue]
    exact eq_iff_fields (l := 5) (m := 6) (n := 5) rfl

end Sys2Proof.Machine
end

section
/-! UPDATE (R290 to R301): its acceptance, the window and the pixel stream that its frames send, its run from READY back to
READY, and what the events of UPDATE and SETUP add up to. -/

namespace Sys2Proof.Machine

/-! ## Acceptance (R290, R323) -/

theorem acceptance_update {s : State} (hp : s.phase = .ready) : s.acceptance 0x02 = none := by
  simp [State.acceptance, hp, Phase.busy]

/-- Settles O20: READY passes every check of UPDATE's acceptance. -/
theorem updateAccepted : Obligations.UpdateAccepted := by
  intro s g hp
  rw [exec_update, execUpdate, State.command, acceptance_update hp]
  rfl

/-! ## The window (R292) -/

/-- Settles O35: the starts are the window's own, and both far edges are exact. -/
theorem windowIsInclusive : Obligations.WindowIsInclusive := by
  intro s hw hh hcols hrows
  have hx2 : s.x2.toNat = s.geomColstart.toNat + s.geomWidth.toNat - 1 := windowEnd_toNat hw (Nat.le_succ_of_le hcols)
  have hy2 : s.y2.toNat = s.geomRowstart.toNat + s.geomHeight.toNat - 1 := windowEnd_toNat hh (Nat.le_succ_of_le hrows)
  have hx1 : s.x1 = s.geomColstart := rfl
  have hy1 : s.y1 = s.geomRowstart := rfl
  refine ⟨hx1, hx2, hy1, hy2, ?_⟩
  rw [hx1, hx2, hy1, hy2]
  omega

/-! ## The pixel stream (R296, R299) -/

@[simp] theorem length_pixelBytes (s : State) (p : Nat) : (s.pixelBytes p).length = 2 := by
  unfold State.pixelBytes
  split <;> rfl

/-- Two bytes for each pixel. -/
@[simp] theorem length_pixelStream (s : State) :
    s.pixelStream.length = 2 * (s.geomWidth.toNat * s.geomHeight.toNat) := by
  simp [State.pixelStream, Nat.mul_comm]

/-- In a sequence of blocks of `k` elements, block `p` begins at `k * p`. -/
theorem getElem?_flatMap_range {α : Type} {f : Nat → List α} {k n p i : Nat} (hlen : ∀ q, (f q).length = k) (hp : p < n)
    (hi : i < k) : ((List.range n).flatMap f)[k * p + i]? = (f p)[i]? := by
  induction n with
  | zero => cases hp
  | succ n ih =>
    have hfront : ((List.range n).flatMap f).length = k * n := by simp [hlen, Nat.mul_comm]
    rw [List.range_succ, List.flatMap_append, List.flatMap_singleton]
    rcases Nat.lt_succ_iff_lt_or_eq.1 hp with hlt | rfl
    · have hblock : k * p + k ≤ k * n := Nat.mul_le_mul_left k hlt
      rw [List.getElem?_append_left (by rw [hfront]; omega), ih hlt]
    · rw [List.getElem?_append_right (by omega), hfront, Nat.add_sub_cancel_left]

/-- The bytes of pixel `p` stand at `2 * p` (R296). -/
theorem getElem?_pixelStream {s : State} {p : Nat} {a b : Byte} (hp : p < s.geomWidth.toNat * s.geomHeight.toNat)
    (h : s.pixelBytes p = [a, b]) : s.pixelStream[2 * p]? = some a ∧ s.pixelStream[2 * p + 1]? = some b := by
  have hbyte : ∀ i < 2, s.pixelStream[2 * p + i]? = (s.pixelBytes p)[i]? :=
    fun i hi => getElem?_flatMap_range (length_pixelBytes s) hp hi
  rw [h] at hbyte
  exact ⟨hbyte 0 (by decide), hbyte 1 (by decide)⟩

theorem pixelBytes_indexed8 {s : State} (hf : s.fmt8 = true) (p : Nat) :
    s.pixelBytes p = [hi8 (x332to565 (s.fb.read p)), lo8 (x332to565 (s.fb.read p))] := if_pos hf

/-- The stored 5-6-5 value goes out as it lies in FB (R89, R299). -/
theorem pixelBytes_rgb565 {s : State} (hf : s.fmt8 = false) (p : Nat) :
    s.pixelBytes p = [s.fb.read (2 * p), s.fb.read (2 * p + 1)] := by
  rw [State.pixelBytes, if_neg (by rw [hf]; simp), Fb.read16, hi8_append, lo8_append]

/-! ## The frames of UPDATE (R293 to R296) -/

/-- A command inside an open transaction and its data bytes, one event a step. -/
theorem begin_command_runs (b : Byte) (bs : List Byte) (s : State) :
    RunsIn bs.length (s.begin (.cmd b) (dataMicros bs)) { s with
      dc := if bs = [] then s.par.dcCmdLevel else !s.par.dcCmdLevel
      wireLog := (bs.map .dat).reverse ++ .cmd b :: s.wireLog } := by
  have hruns := RunsIn.emits (s := s.begin (.cmd b) (dataMicros bs)) (bs.map .dat) s.pending (by simp [dataMicros_eq]) rfl
  simpa [State.begin, State.emit] using hruns

/-- Settles O31: each frame emits its command and leaves the four bytes of its window edges to run. -/
theorem addressFramesSendTheWindow : Obligations.AddressFramesSendTheWindow :=
  fun s => ⟨⟨_, rfl, (begin_command_runs s.par.cmdCaset (waddr s.x1 s.x2) s).run⟩,
    ⟨_, rfl, (begin_command_runs s.par.cmdRaset (waddr s.y1 s.y2) s).run⟩⟩

/-- Settles O32: RAMWR emits its command and leaves the pixel stream to run, in which each pixel has two bytes. -/
theorem memoryWriteStreamsTheBuffer : Obligations.MemoryWriteStreamsTheBuffer := by
  intro s hlen
  have hruns := begin_command_runs s.par.cmdRamwr s.pixelStream s
  rw [length_pixelStream] at hruns
  refine ⟨_, _, if_pos hlen, length_pixelStream s, hruns.run, fun p hp => ⟨fun hf => ?indexed8, fun hf => ?rgb565⟩⟩
  case indexed8 => exact getElem?_pixelStream hp (pixelBytes_indexed8 hf p)
  case rgb565 => exact getElem?_pixelStream hp (pixelBytes_rgb565 hf p)

/-! ## The run of UPDATE (R300, R301) -/

/-- In READY the geometry is the valid one that SETUP resolved, so there is a pixel to send (R227, R229). -/
theorem State.Inv.pixelStream_ne_nil {s : State} (h : s.Inv) (hp : s.phase = .ready) : s.pixelStream ≠ [] := by
  have hgeom : s.geom = s.resolveGeometry := h.geometrySet (by rw [hp]; rfl)
  obtain ⟨hvalid, -⟩ := h.valid (by simp [hp]) (by simp [hp])
  rw [← hgeom] at hvalid
  obtain ⟨hw, hh, -⟩ := (geometryValid_iff _ _).1 hvalid
  have hpixels : 0 < s.geomWidth.toNat * s.geomHeight.toNat := Nat.mul_pos hw hh
  rw [← List.length_pos_iff, length_pixelStream]
  omega

theorem caset_runs {s : State} {ms : List Micro} (hp : s.pending = .frame .caset :: ms) :
    RunsIn 5 s { s with
      pending := ms
      dc := !s.par.dcCmdLevel
      wireLog := ((waddr s.x1 s.x2).map .dat).reverse ++ .cmd s.par.cmdCaset :: s.wireLog } :=
  (RunsIn.one (.caset ms hp)).trans (begin_command_runs _ _ _)

theorem raset_runs {s : State} {ms : List Micro} (hp : s.pending = .frame .raset :: ms) :
    RunsIn 5 s { s with
      pending := ms
      dc := !s.par.dcCmdLevel
      wireLog := ((waddr s.y1 s.y2).map .dat).reverse ++ .cmd s.par.cmdRaset :: s.wireLog } :=
  (RunsIn.one (.raset ms hp)).trans (begin_command_runs _ _ _)

/-- RAMWR leaves DC at the data level when there is a pixel to send. -/
theorem ramwr_runs {s : State} {ms : List Micro} (hp : s.pending = .frame .ramwr :: ms)
    (hb : s.activeLen ≤ s.par.bufBytes) (hne : s.pixelStream ≠ []) :
    RunsIn (1 + s.pixelStream.length) s { s with
      pending := ms
      dc := !s.par.dcCmdLevel
      wireLog := (s.pixelStream.map .dat).reverse ++ .cmd s.par.cmdRamwr :: s.wireLog } := by
  have hruns := (RunsIn.one (.ramwr ms hp hb)).trans (begin_command_runs _ _ _)
  rw [if_neg hne] at hruns
  exact hruns

/-- One transaction with the three frames, then the change of STATE: a step for SEL, a step for each command and each data
byte, a step for DESEL and one for READY (R290). -/
theorem startUpdate_runs {s : State} (hp : s.phase = .ready) (hnil : s.pending = []) (hc : s.csN = true)
    (hb : s.activeLen ≤ s.par.bufBytes) (hne : s.pixelStream ≠ []) :
    RunsIn (14 + s.pixelStream.length) s.startUpdate { s with
      dc := !s.par.dcCmdLevel
      wireLog := s.updateEvents.reverse ++ s.wireLog } := by
  have hsel : RunsIn 1 s.startUpdate _ := .one (.emit .sel _ rfl)
  have haddress := (hsel.trans (caset_runs rfl)).trans (raset_runs rfl)
  have hstream := haddress.trans (ramwr_runs rfl hb hne)
  have hready := (hstream.trans (.one (.emit .desel _ rfl))).trans (.one (.enter .ready [] rfl))
  have hlog : s.updateEvents.reverse ++ s.wireLog =
      .desel :: ((s.pixelStream.map .dat).reverse ++ .cmd s.par.cmdRamwr ::
        (((waddr s.y1 s.y2).map .dat).reverse ++ .cmd s.par.cmdRaset ::
          (((waddr s.x1 s.x2).map .dat).reverse ++ .cmd s.par.cmdCaset :: .sel :: s.wireLog))) := by
    simp [State.updateEvents]
  rw [hlog, hp, hnil, hc, show 14 + s.pixelStream.length = 1 + 5 + 5 + (1 + s.pixelStream.length) + 1 + 1 by omega]
  exact hready

/-- Settles O58: UPDATE is accepted, its steps run, and nothing that its events depend on has changed. -/
theorem updateRunsToReady : Obligations.UpdateRunsToReady := by
  intro s g h hp
  have hnil : s.pending = [] := h.pending_nil (by rw [hp]; rfl)
  obtain ⟨-, hcs, -⟩ := h.of_pending_nil hnil
  have hfits : s.activeLen ≤ s.par.bufBytes := (h.cleared (.inl hp)).trans h.fbCapacity
  have hruns := startUpdate_runs hp hnil hcs hfits (h.pixelStream_ne_nil hp)
  rw [length_pixelStream] at hruns
  exact ⟨_, _, updateAccepted s g hp, hruns.run, rfl, rfl, length_pixelStream s⟩

/-! ## Sums over events (R162, R193, R372, R373) -/

theorem length_cycles (p : Config.Params) (e : WireEvent) :
    (e.cycles p).length = 8 * (e.commandByte.toList.length + e.dataByte.toList.length) := by
  cases e with
  | cmd | dat => exact length_byteCycles _ _ _
  | sel | desel | rst | wait => rfl

/-- Only bytes take SCLK cycles, 8 each (R50, R156). -/
theorem sclkCycles_eq (p : Config.Params) (es : List WireEvent) :
    sclkCycles p es =
      8 * ((es.filterMap WireEvent.commandByte).length + (es.filterMap WireEvent.dataByte).length) := by
  induction es with
  | nil => rfl
  | cons e es ih =>
    have hcycles : sclkCycles p (e :: es) = (e.cycles p).length + sclkCycles p es := rfl
    have hbytes : ∀ f : WireEvent → Option Byte,
        ((e :: es).filterMap f).length = (f e).toList.length + (es.filterMap f).length := fun f => by
      cases h : f e <;> simp [h, Nat.add_comm]
    rw [hcycles, ih, length_cycles, hbytes, hbytes]
    ring

theorem filterMap_commandByte_updateEvents (s : State) :
    s.updateEvents.filterMap WireEvent.commandByte = [s.par.cmdCaset, s.par.cmdRaset, s.par.cmdRamwr] := by
  simp [State.updateEvents, List.filterMap_cons]

theorem filterMap_dataByte_updateEvents (s : State) :
    s.updateEvents.filterMap WireEvent.dataByte = waddr s.x1 s.x2 ++ waddr s.y1 s.y2 ++ s.pixelStream := by
  simp [State.updateEvents, List.filterMap_cons]

theorem minMs_append (es es' : List WireEvent) : minMs (es ++ es') = minMs es + minMs es' := by simp [minMs]

theorem minMs_flatMap {α : Type} (f : α → List WireEvent) (xs : List α) :
    minMs (xs.flatMap f) = (xs.map (fun x => minMs (f x))).sum := by
  rw [minMs, List.map_flatMap, List.flatMap_def, List.sum_flatten, List.map_map]
  rfl

/-- The bytes of a record wait for nothing: its delay alone does (R184, R193). -/
theorem minMs_recordEvents (r : Record) : minMs (recordEvents r) = (r.delay.toList.map delayMs).sum := by
  have hargs : minMs (r.args.map .dat) = 0 := by simp [minMs, Function.comp_def, WireEvent.minMs]
  have hdelay : minMs (r.delay.toList.map (fun d => .wait (delayMs d))) = (r.delay.toList.map delayMs).sum := by
    simp [minMs, Function.comp_def, WireEvent.minMs]
  rw [recordEvents, minMs_append, minMs_append, minMs_append, hargs, hdelay]
  exact Nat.zero_add _

theorem minMs_playEvents {rom : List Byte} {rs : List Record} (h : decodeImage rom = .ok rs) :
    minMs (playEvents rom) = (rs.flatMap (fun r => r.delay.toList.map delayMs)).sum := by
  have hevents : playEvents rom = rs.flatMap recordEvents := by rw [playEvents, h]
  rw [hevents, minMs_flatMap, List.flatMap_def, List.sum_flatten, List.map_map]
  exact congrArg List.sum (List.map_congr_left fun r _ => minMs_recordEvents r)

/-- The reset pulse waits 1 ms and 10 ms, and the startup wait is 100 ms (R224, R225). -/
theorem minMs_startupEvents (s : State) : minMs s.startupEvents = (if s.rstPresent then 11 else 0) + 100 := by
  unfold State.startupEvents
  split <;> rfl

theorem minMs_modeEvents (s : State) : minMs s.modeEvents = 0 := by
  unfold State.modeEvents
  split <;> rfl

/-- Settles O60: the bytes of UPDATE by its command and data bytes, 8 cycles each, and the waits of SETUP by its stages. -/
theorem eventCountsAndWaits : Obligations.EventCountsAndWaits := by
  refine ⟨fun s => ?_, fun s rs hdecode => ?_⟩
  · have hcommands := filterMap_commandByte_updateEvents s
    have hdata := filterMap_dataByte_updateEvents s
    have hlength : (s.updateEvents.filterMap WireEvent.dataByte).length =
        8 + 2 * (s.geomWidth.toNat * s.geomHeight.toNat) := by
      rw [hdata, List.length_append, length_pixelStream]
      rfl
    have hcycles : sclkCycles s.par s.updateEvents = 8 * (11 + 2 * (s.geomWidth.toNat * s.geomHeight.toNat)) := by
      rw [sclkCycles_eq, hcommands, hlength, ← Nat.add_assoc]
      rfl
    refine ⟨hcommands, hdata, hlength, hcycles, fun hhz => ?_⟩
    have hne : (s.par.sclkHz : ℚ) ≠ 0 := by exact_mod_cast hhz.ne'
    rw [minByteSeconds, hcycles, div_mul_cancel₀ _ hne]
    push_cast
    rfl
  · rw [setupEvents_eq, minMs_append, minMs_append, minMs_startupEvents, minMs_playEvents hdecode, minMs_modeEvents]
    rfl

end Sys2Proof.Machine
end

section
/-! The expansion of a 3-3-2 byte (R297, R298, R302), field by field. -/

namespace Sys2Proof.Machine

/-! ## The channels of a colour (R126) -/

theorem extractLsb'_rgb_red (k n : Nat) (r g b : Byte) :
    (rgb r g b).extractLsb' (16 + k) n = r.extractLsb' k n := by
  have houter : (r ++ g ++ b).extractLsb' (16 + k) n = (r ++ g).extractLsb' (16 + k - 8) n :=
    BitVec.extractLsb'_append_eq_of_le (by omega)
  have hinner : (r ++ g).extractLsb' (16 + k - 8) n = r.extractLsb' (16 + k - 8 - 8) n :=
    BitVec.extractLsb'_append_eq_of_le (by omega)
  exact (houter.trans hinner).trans (by rw [show 16 + k - 8 - 8 = k by omega])

theorem extractLsb'_rgb_green {k n : Nat} (h : k + n ≤ 8) (r g b : Byte) :
    (rgb r g b).extractLsb' (8 + k) n = g.extractLsb' k n := by
  have houter : (r ++ g ++ b).extractLsb' (8 + k) n = (r ++ g).extractLsb' (8 + k - 8) n :=
    BitVec.extractLsb'_append_eq_of_le (by omega)
  rw [Nat.add_sub_cancel_left] at houter
  exact houter.trans (BitVec.extractLsb'_append_eq_of_add_le h)

theorem extractLsb'_rgb_blue {k n : Nat} (h : k + n ≤ 8) (r g b : Byte) :
    (rgb r g b).extractLsb' k n = b.extractLsb' k n :=
  BitVec.extractLsb'_append_eq_of_add_le h

/-! ## The fields of an expanded byte -/

/-- The top bits of an expanded field are the field (R302). -/
theorem expandField_top3 : ∀ v : BitVec 3, (expandField v.toNat 7).extractLsb' 5 3 = v := by decide

theorem expandField_top2 : ∀ v : BitVec 2, (expandField v.toNat 3).extractLsb' 6 2 = v := by decide

theorem q332_e332 (p : Byte) : q332 (e332 p) = p := by
  refine (eq_iff_fields (l := 3) (m := 3) (n := 2) rfl).2 ⟨?red, ?green, ?blue⟩
  case red => exact (q332_red _).trans ((extractLsb'_rgb_red 5 3 _ _ _).trans (expandField_top3 _))
  case green => exact (q332_green _).trans ((extractLsb'_rgb_green (k := 5) (by decide) _ _ _).trans (expandField_top3 _))
  case blue => exact (q332_blue _).trans ((extractLsb'_rgb_blue (k := 6) (by decide) _ _ _).trans (expandField_top2 _))

/-- Settles O36: the fields of an expanded byte begin with the bits that quantisation keeps. -/
theorem quantiseExpandIsIdempotent : Obligations.QuantiseExpandIsIdempotent := ⟨q332_e332, fun c => q332_e332 (q332 c)⟩

/-! ## The table of R298 -/

/-- A 16-bit value in terms of its 5-6-5 fields. -/
theorem toNat_eq_565_fields (v : Half) :
    v.toNat = (v.extractLsb' 11 5).toNat * 2048 + (v.extractLsb' 5 6).toNat * 32 + (v.extractLsb' 0 5).toNat := by
  have hlt : v.toNat < 65536 := v.isLt
  simp only [BitVec.extractLsb'_toNat, Nat.shiftRight_eq_div_pow]
  omega

theorem expandField_top5_of3 : ∀ v : BitVec 3,
    ((expandField v.toNat 7).extractLsb' 3 5).toNat = [0, 4, 9, 13, 18, 22, 27, 31].getD v.toNat 0 := by decide

theorem expandField_top6_of3 : ∀ v : BitVec 3,
    ((expandField v.toNat 7).extractLsb' 2 6).toNat = [0, 9, 18, 27, 36, 45, 54, 63].getD v.toNat 0 := by decide

theorem expandField_top5_of2 : ∀ v : BitVec 2,
    ((expandField v.toNat 3).extractLsb' 3 5).toNat = [0, 10, 21, 31].getD v.toNat 0 := by decide

/-- Settles O37: each field of the 5-6-5 value is the top bits of one expanded field, read from the table. -/
theorem expansionTable : Obligations.ExpansionTable := by
  intro p
  have hred : ((x332to565 p).extractLsb' 11 5) = (expandField (p.extractLsb' 5 3).toNat 7).extractLsb' 3 5 :=
    (q565_red _).trans (extractLsb'_rgb_red 3 5 _ _ _)
  have hgreen : ((x332to565 p).extractLsb' 5 6) = (expandField (p.extractLsb' 2 3).toNat 7).extractLsb' 2 6 :=
    (q565_green _).trans (extractLsb'_rgb_green (k := 2) (by decide) _ _ _)
  have hblue : ((x332to565 p).extractLsb' 0 5) = (expandField (p.extractLsb' 0 2).toNat 3).extractLsb' 3 5 :=
    (q565_blue _).trans (extractLsb'_rgb_blue (k := 3) (by decide) _ _ _)
  have hp5 : (p.extractLsb' 5 3).toNat = p.toNat / 32 := by
    have hlt : p.toNat < 256 := p.isLt
    simp only [BitVec.extractLsb'_toNat, Nat.shiftRight_eq_div_pow]
    omega
  have hp2 : (p.extractLsb' 2 3).toNat = p.toNat / 4 % 8 := by simp [Nat.shiftRight_eq_div_pow]
  have hp0 : (p.extractLsb' 0 2).toNat = p.toNat % 4 := by simp
  rw [toNat_eq_565_fields, hred, hgreen, hblue, expandField_top5_of3, expandField_top6_of3, expandField_top5_of2, hp5, hp2,
    hp0]

end Sys2Proof.Machine
end

section
/-! The exceptions (R320 to R326): a write of CMD by the check that rejects it or the operation that it runs, and the lifecycle
state FAILED, how it is entered and what it rejects. -/

namespace Sys2Proof.Machine

/-! ## The acceptance check (R321, R323) -/

theorem exec_regCmd_write (v : Word) (s : State) : exec (.regCmd (.write v)) s = s.command (opField v) := rfl

/-- A command that the acceptance check rejects sets that one ERR bit. -/
theorem command_rejected {op : Byte} {s : State} {e : Err} (h : s.acceptance op = some e) :
    s.command op = .next (s.raise e) := by
  rw [State.command, h]

/-- BUSY is the first check, whatever the operation code. -/
theorem command_busy {s : State} (op : Byte) (hb : s.phase.busy = true) : s.command op = .next (s.raise .busy) :=
  command_rejected (if_pos hb)

/-- SETUP is an operation of UNINIT alone. -/
theorem command_setup_rejected {s : State} (hb : s.phase.busy = false) (hp : s.phase ≠ .uninit) :
    s.command 0x01 = .next (s.raise .state) :=
  command_rejected (by simp [State.acceptance, hb, hp])

/-- UPDATE and SET_PIXEL are operations of READY alone. -/
theorem command_ready_rejected {s : State} {op : Byte} (ho : op = 0x02 ∨ op = 0x03) (hb : s.phase.busy = false)
    (hp : s.phase ≠ .ready) : s.command op = .next (s.raise .state) := by
  refine command_rejected ?_
  obtain rfl | rfl := ho <;> simp [State.acceptance, hb, hp]

theorem mem_operations_iff {op : Byte} : op ∈ ([0x01, 0x02, 0x03] : List Byte) ↔ op = 0x01 ∨ op = 0x02 ∨ op = 0x03 := by simp

/-- Settles O15: the checks in the order of R321, then each operation in the state that accepts it. -/
theorem commandWriteAcceptance : Obligations.CommandWriteAcceptance := by
  intro s v
  simp only [exec_regCmd_write]
  refine ⟨fun hb => command_busy _ hb, fun hb ho => ?_, fun hb ho hp => ?_, fun hb ho hp => ?_, fun ho hp => ?_,
    fun ho hp => ?_, fun ho hp => ?_⟩
  · rw [command_reserved s fun h => ho (mem_operations_iff.2 h), hb]
    rfl
  · rw [ho]
    exact command_setup_rejected hb hp
  · exact command_ready_rejected (by simpa using ho) hb hp
  · rw [ho]
    exact exec_setup_uninit 0 hp
  · rw [ho]
    exact updateAccepted s 0 hp
  · rw [ho]
    exact exec_setPixel_ready 0 hp

/-! ## An idle engine -/

theorem step_blockReset {s : State} {ts : List Turn} (ha : s.agenda = .blockReset :: ts) :
    step s = .next ({ s with agenda := ts } : State).blockReset := by
  rw [step_eq, State.fetch, ha]
  rfl

/-- An engine that is not BUSY has nothing to do by itself: a turn that is neither the host's nor a block reset just passes
(R35, R47). -/
theorem State.Inv.step_of_not_busy {s t : State} (h : s.Inv) (hb : s.phase.busy = false)
    (hhost : s.agenda.head? ≠ some .host) (hreset : s.agenda.head? ≠ some .blockReset) (hstep : step s = .next t) :
    t = { s with agenda := s.agenda.tail } := by
  rcases ha : s.agenda with _ | ⟨turn, ts⟩
  · rw [step_agenda_nil ha] at hstep
    cases hstep
    rw [List.tail_nil, ← ha]
  · cases turn with
    | host => simp [ha] at hhost
    | sequencer =>
      rw [step_sequencer_idle ha (h.pending_nil hb)] at hstep
      exact (Host.Outcome.next.inj hstep).symm
    | stall =>
      rw [step_stall ha] at hstep
      exact (Host.Outcome.next.inj hstep).symm
    | blockReset => simp [ha] at hreset

/-! ## FAILED (R324) -/

theorem Phase.eq_uninit_of_mayBecome_failed {ph : Phase} (h : ph.mayBecome .failed = true) : ph = .uninit := by
  cases ph with
  | uninit => rfl
  | resetting | playingInit | configMode | ready | transmitting | failed => cases h

/-- SETUP's validation is the one way into FAILED, with the ERR bit of what it found first (R222). -/
theorem startSetup_failed {s : State} (h : s.startSetup.phase = .failed) :
    (s.geometryValid s.resolveGeometry = false ∧ s.startSetup.err = s.err ||| 0b00001) ∨
      (s.geometryValid s.resolveGeometry = true ∧ validate s.rom = false ∧ s.startSetup.err = s.err ||| 0b00010) := by
  obtain ⟨hg, hs⟩ | ⟨hg, hv, hs⟩ | ⟨-, -, hs⟩ := startSetup_cases s
  · exact .inl ⟨hg, by rw [hs]; rfl⟩
  · exact .inr ⟨hg, hv, by rw [hs]; rfl⟩
  · rw [hs] at h
    cases h

/-- The host's step into FAILED is a write of CMD that starts a SETUP. -/
theorem step_host_enters_failed {s t : State} {ts : List Turn} (ha : s.agenda = .host :: ts) (hstep : step s = .next t)
    (hp : s.phase ≠ .failed) (ht : t.phase = .failed) :
    ∃ v rest, s.hostProgram = .access (wr 0x00 v) :: rest ∧ opField v = 0x01 ∧
      t = ({ s with agenda := ts, hostProgram := rest } : State).startSetup := by
  obtain ⟨-, hturn⟩ := hostProgramIsTakenInOrder s t hstep
  obtain ⟨-, rfl⟩ | ⟨a, i, rest, hprog, hd, hexec, -⟩ | ⟨rest, -, rfl⟩ := hturn ts ha
  · exact absurd ht hp
  · obtain hph | ⟨v, rfl, ⟨ho, -, hs⟩ | ⟨-, -, rfl⟩⟩ := exec_hostReg_phase (decodeHostReg_format hd) hexec
    · exact absurd (hph.symm.trans ht) hp
    · exact ⟨v, rest, by rw [hprog, decodeHostReg_write_cmd hd], ho, hs⟩
    · cases ht
  · exact absurd ht hp

/-- A host access leaves FAILED as it is: only a SETUP in UNINIT and an UPDATE in READY change STATE (R220). -/
theorem HostEffect.phase_of_failed {s t : State} (h : HostEffect s t) (hp : s.phase = .failed) : t.phase = .failed := by
  obtain hph | hmay := h.phase_eq_or_mayBecome
  · exact hph.trans hp
  · rw [hp] at hmay
    cases hmay

/-- FAILED is entered by the host, since UNINIT, the one state that leads to it, is idle. -/
theorem State.Inv.enters_failed {s t : State} (h : s.Inv) (hstep : step s = .next t) (hp : s.phase ≠ .failed)
    (ht : t.phase = .failed) : s.phase = .uninit ∧ ∃ ts, s.agenda = .host :: ts := by
  have hu : s.phase = .uninit := by
    obtain hph | hmay | ⟨-, hreset⟩ := onlyTheListedTransitions s t h hstep
    · exact absurd (hph.symm.trans ht) hp
    · rw [ht] at hmay
      exact Phase.eq_uninit_of_mayBecome_failed hmay
    · rw [ht] at hreset
      cases hreset
  refine ⟨hu, ?_⟩
  by_contra hhost
  rw [← List.head?_eq_some_iff] at hhost
  by_cases hreset : s.agenda.head? = some .blockReset
  · obtain ⟨ts, ha⟩ := List.head?_eq_some_iff.1 hreset
    rw [step_blockReset ha] at hstep
    cases hstep
    cases ht
  · have htu := h.step_of_not_busy (by rw [hu]; rfl) hhost hreset hstep
    rw [htu] at ht
    exact hp ht

/-- Only a block reset leaves FAILED, and nothing is sent in it: the host's accesses change no STATE there, and the sequencer
has nothing to do. -/
theorem State.Inv.step_of_failed {s t : State} (h : s.Inv) (hp : s.phase = .failed) (hstep : step s = .next t)
    (hreset : s.agenda.head? ≠ some .blockReset) : t.phase = .failed ∧ t.trace = s.trace := by
  by_cases hhost : s.agenda.head? = some .host
  · obtain ⟨ts, ha⟩ := List.head?_eq_some_iff.1 hhost
    obtain ⟨ps, he⟩ := step_host_effect ha hstep
    exact ⟨he.phase_of_failed hp, he.trace_eq⟩
  · rw [h.step_of_not_busy (by rw [hp]; rfl) hhost hreset hstep]
    exact ⟨hp, rfl⟩

/-- In FAILED no operation is accepted: a known operation code is of another state, and any other is reserved. -/
theorem command_failed {s : State} (hp : s.phase = .failed) (op : Byte) :
    s.command op = .next (s.raise (if op ∈ ([0x01, 0x02, 0x03] : List Byte) then .state else .op)) := by
  have hb : s.phase.busy = false := by rw [hp]; rfl
  split
  · next ho =>
    obtain rfl | ho := mem_operations_iff.1 ho
    · exact command_setup_rejected hb (by simp [hp])
    · exact command_ready_rejected ho hb (by simp [hp])
  · next ho => rw [command_reserved s (mt mem_operations_iff.2 ho), hb]; rfl

/-- Settles O55: the step into FAILED is the host's, and runs a SETUP that its validation rejects; FAILED is idle and accepts
no command, and its CFG_* registers are locked. -/
theorem failedIsTerminal : Obligations.FailedIsTerminal := by
  constructor
  · intro s t h hstep hp ht
    obtain ⟨hu, ts, ha⟩ := h.enters_failed hstep hp ht
    obtain ⟨v, rest, hprog, ho, rfl⟩ := step_host_enters_failed ha hstep hp ht
    exact ⟨hu, ⟨ts, v, rest, ha, hprog, ho⟩, startSetup_failed ht⟩
  · intro s h hp
    refine ⟨h.geometryUnset (by rw [hp]; rfl), by rw [hp]; rfl, fun v => (configWrites s v).2 (by simp [hp]),
      fun t hstep hreset => h.step_of_failed hp hstep hreset, fun v => ?_⟩
    rw [exec_regCmd_write, command_failed hp]
    split <;> rfl

end Sys2Proof.Machine
end

section
/-! Block reset (R360, R362) and the end of every operation (R375): the elements of `s.pending` are finitely many, and from a
state with the invariant the sequencer completes each of them. -/

namespace Sys2Proof.Machine

/-! ## Block reset -/

/-- Settles O56: `State.blockReset` keeps the old trace followed by its closing events, DESEL and then RST(1). -/
theorem blockResetRestoresTheResetValues : Obligations.BlockResetRestoresTheResetValues :=
  fun s _ ha => ⟨_, step_blockReset ha, rfl,
    congrArg (· :: s.history) (List.append_assoc s.trace _ _).symm, rfl, rfl⟩

/-! ## The invariant along a run -/

theorem RunsTo.refl (s : State) : RunsTo s s := ⟨0, fun m => by rw [Nat.zero_add]⟩

theorem State.Inv.of_runSequencer {n : Nat} {s t : State} (h : s.Inv) (hrun : s.runSequencer n = .next t) : t.Inv := by
  induction n generalizing s with
  | zero =>
    obtain rfl := Host.Outcome.next.inj hrun
    exact { h with }
  | succ n ih =>
    obtain ⟨u, he, hu⟩ := runSequencer_succ_next hrun
    exact ih (he.inv h) hu

theorem RunsTo.inv {s t : State} (h : RunsTo s t) (hs : s.Inv) : t.Inv := by
  obtain ⟨k, hruns⟩ := h
  exact { hs.of_runSequencer hruns.run with }

/-! ## Every operation ends (R375) -/

/-- The loop of Play() ends: the plan has the loop of Validate() pass every record that is left (R180, R181). -/
theorem State.Inv.loop_completes {s : State} (h : s.Inv) {ms : List Micro} (hp : s.pending = .playNext :: ms) :
    ∃ t, RunsTo s t ∧ t.pending = ms := by
  obtain ⟨v, hv, -⟩ := h.head hp
  obtain ⟨⟨hc, -, hscan⟩, -⟩ := Plan.next_playNext_iff.1 hv
  have hlen := validate_length (h.valid_of_busy (Plan.next_busy hv)).2
  obtain ⟨k, dc, rs, -, hloop⟩ := loop_runs (by omega) hc hp rfl hscan
  exact ⟨_, (hloop.trans (.one (.loopEnd ms hp rfl))).runsTo, rfl⟩

/-- The sequencer completes the element at the head of `s.pending` and comes to the next one: no turn of it stops, an
instruction that it begins leaves only its own events in front, and the loop of Play() ends. -/
theorem State.Inv.head_completes {s : State} (h : s.Inv) : ∃ t, RunsTo s t ∧ t.pending = s.pending.tail := by
  obtain ⟨u, -, he⟩ | ⟨f, -, hstops⟩ := sequencer_cases s
  · have hstep := RunsTo.one he
    cases he with
    | idle hp | emit _ _ hp | enter _ _ hp | count _ _ _ hp | loopEnd _ hp | delay _ _ hp | advance _ _ hp
    | recordDone _ hp | clear _ hp => exact ⟨_, hstep, by rw [hp]; rfl⟩
    | record _ _ _ hp => rw [hp]; exact h.loop_completes hp
    | caset _ hp | raset _ hp | ramwr _ hp =>
      exact ⟨_, hstep.trans (begin_command_runs _ _ _).runsTo, by rw [hp]; rfl⟩
    | madctl _ hp => exact ⟨_, hstep.trans (madctl_runs _).runsTo, by rw [hp]; rfl⟩
    | invon _ hp => exact ⟨_, hstep.trans (invon_runs _).runsTo, by rw [hp]; rfl⟩
  · exact absurd hstops (h.not_sequencerStops f)

/-- One element after another, until none is left. -/
theorem State.Inv.runsTo_pending_nil {s : State} (h : s.Inv) : ∃ t, RunsTo s t ∧ t.pending = [] := by
  induction hp : s.pending generalizing s with
  | nil => exact ⟨s, .refl s, hp⟩
  | cons m ms ih =>
    obtain ⟨u, hu, hrest⟩ := h.head_completes
    obtain ⟨t, ht, hnil⟩ := ih (hu.inv h) (hrest.trans (congrArg List.tail hp))
    exact ⟨t, hu.trans ht, hnil⟩

/-- Settles O59: the sequencer runs until nothing is pending, and with nothing pending the engine is idle. -/
theorem everyOperationEnds : Obligations.EveryOperationEnds := by
  intro s h
  obtain ⟨t, ht, hnil⟩ := h.runsTo_pending_nil
  obtain ⟨hidle, -⟩ := (ht.inv h).of_pending_nil hnil
  obtain ⟨n, hruns⟩ := ht
  exact ⟨n, _, hruns.run, hidle, hnil⟩

end Sys2Proof.Machine
end
